-- ==== Sys2Proof/Word.lean ====
section
/-! DEFINITION. The one word type of the machine. -/

namespace Sys2Proof

/-- A byte, bit 0 least significant (00_scope.md R9). Every architectural scalar is one byte (20_memory.md R64). -/
abbrev Byte := BitVec 8

end Sys2Proof
end

