-- ==== Sys2Proof/Config.lean ====
section
/-! DEFINITION. What the host fixes at construction, and the values the spec leaves free.

The bodiless constants below have no value that Lean can compute or prove: a claim that mentions one holds for every
value it could have. -/

namespace Sys2Proof

/-- The parameters of a run: 00_scope.md R7, 10_state.md R37 and R38. Fixed at construction and load, written by no step. -/
structure Config where
  /-- WIDTH, in pixels; any natural number (D12). -/
  width : Nat
  /-- HEIGHT, in pixels; any natural number (D12). -/
  height : Nat
  /-- PERIOD, the `JumpDt` target period in clock ticks (45_branch.md R178, D10). -/
  period : Nat
  /-- T0, the clock reading taken at construction (60_exceptions.md R257, D9). -/
  t0 : Nat
  /-- PROG, the program; its length is PROG_LEN (20_memory.md R61, D21). -/
  prog : List Byte
deriving DecidableEq, Repr

/-- FB_SIZE = WIDTH * HEIGHT * 4 (00_scope.md R7, 10_state.md R28). -/
def Config.fbSize (c : Config) : Nat := c.width * c.height * 4

/-- WIDTH of the machine that `State.reset` constructs. DESIGN CHOICE: the host chooses it (R7), so no value is named.
Safe. Log 11. -/
opaque Config.launchWidth : Nat

/-- HEIGHT of the machine that `State.reset` constructs. DESIGN CHOICE: no value is named (R7). Safe. Log 11. -/
opaque Config.launchHeight : Nat

/-- PERIOD of the machine that `State.reset` constructs. DESIGN CHOICE: no value is named (R7). Safe. Log 9. -/
opaque Config.launchPeriod : Nat

/-- T0 of the machine that `State.reset` constructs. DESIGN CHOICE: no value is named (R7, D9). Safe. Log 8. -/
opaque Config.launchT0 : Nat

/-- How far the Clock has moved on when it gives its answer number `n`, beyond the answer before it. The spec leaves
the answers free under monotonicity only (60_exceptions.md R257). DESIGN CHOICE of form (free value). Safe. Log 8. -/
opaque Config.clockAdvance : Nat → Nat

/-- PERIOD in clock ticks for a cpu frequency in hertz: "1000 / cpu_frequency_hz milliseconds" with the rounding and
the unit left open (45_branch.md R178, D10). DESIGN CHOICE of form (free value). Safe. Log 9.
That the frequency is a natural number of hertz is the model's DESIGN CHOICE: the spec gives `f` no domain. Unsafe.
Log 29. -/
opaque Config.periodTicks : Nat → Nat

/-- One move of the schedule: which agent steps (60_exceptions.md R262 to R266). -/
inductive Machine.Move where
  /-- The Engine (R262). -/
  | engine
  /-- The Input Producer sets bit `k` (R263). -/
  | press (k : Fin 8)
  /-- The Input Producer clears bit `k` (R264). -/
  | release (k : Fin 8)
  /-- The Display Consumer takes from the mailbox (R265). -/
  | take
  /-- The Host raises the stop request (R266). -/
  | stop
deriving DecidableEq, Repr, Inhabited

/-- Move number `n` of a schedule that nothing constrains: any agent's, for ever (60_exceptions.md R268). DESIGN CHOICE of
form (free value). Safe. Log 18. -/
opaque Config.freeMove : Nat → Machine.Move

end Sys2Proof
end

