-- ==== Sys2Proof/Syntax.lean ====
section
/-! DEFINITION. The instructions as data: one constructor for each row of spec/opcode_table.json, and their opcode tags. -/

namespace Sys2Proof

/-- The 31 instruction names and the decode result `Illegal` (00_scope.md R13). -/
inductive Tag where
  | halt
  | loadI
  | add
  | print
  | nop
  | jump
  | loadR
  | jeq
  | comp
  | jneq
  | color
  | inc
  | dec
  | call
  | ret
  | input
  | and
  | xor
  | or
  | sub
  | div
  | mul
  | jz
  | jnz
  | printB
  | andI
  | colorI
  | draw
  | push
  | pop
  | jumpDt
  | illegal
deriving DecidableEq, Repr

/-- An instruction with its operand bytes in stream order (30_encoding.md R91, R97). An operand is the raw byte: a
register byte of 64 or more is a legal encoding that raises `RegisterRangeError` when executed (R96).
`illegal` carries the opcode byte that decoded to it (R98; log 28). -/
inductive Instr where
  | halt
  | loadI (dst imm : Byte)
  | add (dst a b : Byte)
  | print (r : Byte)
  | nop
  | jump (addr : Byte)
  | loadR (dst src : Byte)
  | jeq (addr : Byte)
  | comp (a b : Byte)
  | jneq (addr : Byte)
  | color (x y c : Byte)
  | inc (r : Byte)
  | dec (r : Byte)
  | call (addr : Byte)
  | ret
  | input (r : Byte)
  | and (dst a b : Byte)
  | xor (dst a b : Byte)
  | or (dst a b : Byte)
  | sub (dst a b : Byte)
  | div (dst a b : Byte)
  | mul (dst a b : Byte)
  | jz (addr : Byte)
  | jnz (addr : Byte)
  | printB (r : Byte)
  | andI (dst src imm : Byte)
  | colorI (x y imm : Byte)
  | draw
  | push (r : Byte)
  | pop (r : Byte)
  | jumpDt (addr : Byte)
  | illegal (op : Byte)
deriving DecidableEq, Repr

/-- The tag of an instruction. -/
def Instr.tag : Instr → Tag
  | .halt => .halt
  | .loadI _ _ => .loadI
  | .add _ _ _ => .add
  | .print _ => .print
  | .nop => .nop
  | .jump _ => .jump
  | .loadR _ _ => .loadR
  | .jeq _ => .jeq
  | .comp _ _ => .comp
  | .jneq _ => .jneq
  | .color _ _ _ => .color
  | .inc _ => .inc
  | .dec _ => .dec
  | .call _ => .call
  | .ret => .ret
  | .input _ => .input
  | .and _ _ _ => .and
  | .xor _ _ _ => .xor
  | .or _ _ _ => .or
  | .sub _ _ _ => .sub
  | .div _ _ _ => .div
  | .mul _ _ _ => .mul
  | .jz _ => .jz
  | .jnz _ => .jnz
  | .printB _ => .printB
  | .andI _ _ _ => .andI
  | .colorI _ _ _ => .colorI
  | .draw => .draw
  | .push _ => .push
  | .pop _ => .pop
  | .jumpDt _ => .jumpDt
  | .illegal _ => .illegal

/-- The operand bytes of an instruction in stream order `o1, o2, o3` (30_encoding.md R97); the opcode byte that an
`illegal` carries is no operand. -/
def Instr.operands : Instr → List Byte
  | .halt => []
  | .loadI dst imm => [dst, imm]
  | .add dst a b => [dst, a, b]
  | .print r => [r]
  | .nop => []
  | .jump addr => [addr]
  | .loadR dst src => [dst, src]
  | .jeq addr => [addr]
  | .comp a b => [a, b]
  | .jneq addr => [addr]
  | .color x y c => [x, y, c]
  | .inc r => [r]
  | .dec r => [r]
  | .call addr => [addr]
  | .ret => []
  | .input r => [r]
  | .and dst a b => [dst, a, b]
  | .xor dst a b => [dst, a, b]
  | .or dst a b => [dst, a, b]
  | .sub dst a b => [dst, a, b]
  | .div dst a b => [dst, a, b]
  | .mul dst a b => [dst, a, b]
  | .jz addr => [addr]
  | .jnz addr => [addr]
  | .printB r => [r]
  | .andI dst src imm => [dst, src, imm]
  | .colorI x y imm => [x, y, imm]
  | .draw => []
  | .push r => [r]
  | .pop r => [r]
  | .jumpDt addr => [addr]
  | .illegal _ => []

/-- The operand bytes that stand in a register position, in stream order (30_encoding.md R91). -/
def Instr.regOperands : Instr → List Byte
  | .halt => []
  | .loadI dst _ => [dst]
  | .add dst a b => [dst, a, b]
  | .print r => [r]
  | .nop => []
  | .jump _ => []
  | .loadR dst src => [dst, src]
  | .jeq _ => []
  | .comp a b => [a, b]
  | .jneq _ => []
  | .color x y c => [x, y, c]
  | .inc r => [r]
  | .dec r => [r]
  | .call _ => []
  | .ret => []
  | .input r => [r]
  | .and dst a b => [dst, a, b]
  | .xor dst a b => [dst, a, b]
  | .or dst a b => [dst, a, b]
  | .sub dst a b => [dst, a, b]
  | .div dst a b => [dst, a, b]
  | .mul dst a b => [dst, a, b]
  | .jz _ => []
  | .jnz _ => []
  | .printB r => [r]
  | .andI dst src _ => [dst, src]
  | .colorI x y _ => [x, y]
  | .draw => []
  | .push r => [r]
  | .pop r => [r]
  | .jumpDt _ => []
  | .illegal _ => []

end Sys2Proof
end

