-- ==== Sys2Proof/WellFormed.lean ====
section
/-! DEFINITION. Which instruction terms stand for bytes of a program. -/

namespace Sys2Proof

/-- An instruction term that some program bytes encode. Every operand byte is significant and every value of it is an
encoding (30_encoding.md R96, R98), so the one check is that `illegal` carries an illegal opcode byte, 31 or more. -/
def Instr.wf : Instr → Bool
  | .halt => true
  | .loadI _ _ => true
  | .add _ _ _ => true
  | .print _ => true
  | .nop => true
  | .jump _ => true
  | .loadR _ _ => true
  | .jeq _ => true
  | .comp _ _ => true
  | .jneq _ => true
  | .color _ _ _ => true
  | .inc _ => true
  | .dec _ => true
  | .call _ => true
  | .ret => true
  | .input _ => true
  | .and _ _ _ => true
  | .xor _ _ _ => true
  | .or _ _ _ => true
  | .sub _ _ _ => true
  | .div _ _ _ => true
  | .mul _ _ _ => true
  | .jz _ => true
  | .jnz _ => true
  | .printB _ => true
  | .andI _ _ _ => true
  | .colorI _ _ _ => true
  | .draw => true
  | .push _ => true
  | .pop _ => true
  | .jumpDt _ => true
  | .illegal op => decide (31 ≤ op.toNat)

/-- Every register operand names one of the 64 cells; otherwise executing the instruction raises `RegisterRangeError`
(10_state.md R21). Not a part of well-formedness: a byte of 64 or more is a legal encoding (30_encoding.md R96). -/
def Instr.regsInRange (i : Instr) : Bool := i.regOperands.all fun o => decide (o.toNat < 64)

end Sys2Proof
end

