-- ==== Sys2Proof/Machine/State.lean ====
section
/-! DEFINITION. The machine's state as plain data, its reasons to stop, and the state after reset. -/

namespace Sys2Proof.Machine

open Sys2Proof

/-- The termination reasons of 60_exceptions.md R241. -/
inductive Reason where
  /-- A `Halt` instruction executed (R120). -/
  | halt
  /-- The opcode byte is in 31..255 (R121). -/
  | decodeError
  /-- An opcode or operand byte is to be fetched at or past PROG_LEN (R92). -/
  | programBoundsError
  /-- An operand byte in a register position is 64 or more (R21). -/
  | registerRangeError
  /-- Pixel x >= WIDTH or y >= HEIGHT (R221). -/
  | frameBoundsError
  /-- The divisor register holds 0 (R143). -/
  | arithmeticError
  /-- `Ret` with an empty return slot (R191). -/
  | callStackError
  /-- The stop request was set at the start of a step (R246, D16). -/
  | stopped
deriving DecidableEq, Repr

/-- `Running`, or the terminal state with its reason (10_state.md R29). -/
inductive RunState where
  | running
  | halted (reason : Reason)
deriving DecidableEq, Repr

/-- The radix tag of a diagnostic event (10_state.md R31). -/
inductive Radix where
  | dec
  | bin
deriving DecidableEq, Repr

/-- Bytes by offset: cells at strictly rising addresses, none equal to what an unlisted address reads as. -/
structure Memory where
  cells : List Host.Cell
deriving DecidableEq, Repr

/-- A frame: one whole snapshot of the frame buffer (10_state.md R35), a value. -/
abbrev Frame := Memory

/-- What the Display Consumer's `take()` answers (60_exceptions.md R259). -/
inductive TakeResult where
  | frame (f : Frame)
  | empty
  | closed
deriving DecidableEq, Repr

/-- How a schedule goes on once the moves listed one by one are used up: for ever, in either case. The model's own form of
60_exceptions.md R268. Log 18. -/
inductive Recurrence where
  /-- These moves over and over; with none named, the Engine alone. -/
  | cycle (moves : List Move)
  /-- Moves that nothing constrains, `Config.freeMove`. -/
  | free
deriving DecidableEq, Repr

/-- The state tuple of 10_state.md R20, the configuration of a run (R38), and the model's own fields that stand for the
schedule, the Clock's answers and the consumer's observations. -/
structure State where
  /-- PROG, WIDTH, HEIGHT, PERIOD, T0: fixed for a run (10_state.md R37, R38). -/
  cfg : Config
  /-- The register file `x[0..63]` (10_state.md R21). -/
  x : Vector Byte 64
  /-- The instruction pointer: unbounded, no wrap (10_state.md R22, R23; D2, log 2). -/
  pc : Nat
  /-- The `equal` flag `eq` (10_state.md R24). -/
  eqFlag : Bool
  /-- The `zero` flag `zf` (10_state.md R24). -/
  zeroFlag : Bool
  /-- The data stack `ds`, top last (10_state.md R25). -/
  ds : List Byte
  /-- The call stack `cs`, top last (10_state.md R26). -/
  cs : List (Option Nat)
  /-- The return slot `rs` (10_state.md R26). -/
  rs : Option Nat
  /-- The frame buffer `fb`, FB_SIZE bytes (10_state.md R28). -/
  fb : Memory
  /-- The run state (10_state.md R29). -/
  run : RunState
  /-- The throttle's reference time `t_last` (10_state.md R30). -/
  tLast : Nat
  /-- The diagnostic output `diag`, in order of emission (10_state.md R31). -/
  diag : List (Radix × Byte)
  /-- `frames_sent`, the number of `Draw`s executed (10_state.md R20). -/
  framesSent : Nat
  /-- Whether the engine's end of the Frame Channel is open (10_state.md R32). -/
  chanOpen : Bool
  /-- The controller latch `ctrl` (10_state.md R34). -/
  ctrl : Byte
  /-- The frame mailbox `mbox` (10_state.md R35). -/
  mbox : Option Frame
  /-- The stop request `stop_req` (10_state.md R36). -/
  stopReq : Bool
  /-- MODEL'S OWN: the moves scheduled next, first at the head; with none left, `recurrence` says how it goes on. Log 18. -/
  sched : List Move
  /-- MODEL'S OWN: the endless part of the schedule; written by no step. Log 18. -/
  recurrence : Recurrence
  /-- MODEL'S OWN: how many moves were drawn from `Config.freeMove`, the argument of the free value. Log 18. -/
  movesDrawn : Nat
  /-- MODEL'S OWN: the latest answer of the Clock, T0 before the first (60_exceptions.md R257). Log 8. -/
  clock : Nat
  /-- MODEL'S OWN: how many answers the Clock has given, the argument of the free value. Log 8. -/
  clockReads : Nat
  /-- MODEL'S OWN: advances a mock clock answers with first (60_exceptions.md R257). Log 8. -/
  clockScript : List Nat
  /-- MODEL'S OWN: what `take()` has answered so far, oldest first; read by no step. Log 24. -/
  taken : List TakeResult
deriving DecidableEq, Repr

/-- Why a step does not happen. -/
inductive Fault where
  /-- Raised by an Engine step when `run = Halted(reason)`: no Engine step is enabled, the run has ended and the host has
  its reason (60_exceptions.md R262, R269). Safe: the machine has no step there. Log 27. -/
  | runEnded (reason : Reason)
deriving DecidableEq, Repr

/-- What the model declines to do. -/
inductive Refusal where
  /-- An instruction that has no meaning yet; raised by `exec`'s arm of that name. Safe. -/
  | notModelled (mnemonic : String)
  /-- Raised by the host ports `constructAtFrequency` and `reconstructAtFrequency` for a cpu frequency of 0: no engine exists (D10). Safe. Log 9. -/
  | zeroFrequency
deriving DecidableEq, Repr

/-- What executing an instruction, or a step, answers. -/
abbrev Result := Host.Outcome State Fault Refusal

/-- The machine right after construction, before a program is loaded: the reset values of 10_state.md R40. Registers and
flags are D3, D4 (DESIGN CHOICE, unsafe, log 3); `tLast` is D9 (log 8); `chanOpen`, `mbox`, `stopReq` are D15, D16
(logs 14, 15); `run` is `Running` (log 26); the model's own fields start empty, with the Engine alone scheduled (DESIGN CHOICE, unsafe, log 18; logs 8, 24). It is the first
construction in the process: the latch is 0. A later one keeps the latch: `State.reconstruct` (R293, log 19). -/
def State.construct (width height period t0 : Nat) : State where
  cfg := { width := width, height := height, period := period, t0 := t0, prog := [] }
  x := Vector.replicate 64 0
  pc := 0
  eqFlag := false
  zeroFlag := false
  ds := []
  cs := []
  rs := none
  fb := { cells := [] }
  run := .running
  tLast := t0
  diag := []
  framesSent := 0
  chanOpen := true
  ctrl := 0
  mbox := none
  stopReq := false
  sched := []
  recurrence := .cycle []
  movesDrawn := 0
  clock := t0
  clockReads := 0
  clockScript := []
  taken := []

/-- The machine right after reset (70_reset_and_hazards.md R290): constructed with the host's parameters, which no
definition gives a value, and with no program loaded (R294, log 20). -/
def State.reset : State :=
  State.construct Config.launchWidth Config.launchHeight Config.launchPeriod Config.launchT0

end Sys2Proof.Machine
end

