-- ==== Sys2Proof/Machine/Ops.lean ====
section
/-! DEFINITION. The named operations over the state: memory, registers, stacks, clock, frame, and the one operation that
ends a run. Instruction meanings are written over these. -/

namespace Sys2Proof.Machine

open Sys2Proof

/-! ### Memory -/

/-- What an unlisted byte of the frame buffer reads as: 0, its reset value (10_state.md R28, R40). Log 25. -/
def Memory.blank : Byte := 0

/-- The byte at offset `a` of a cell list. -/
def readCells : List Host.Cell → Nat → Byte
  | [], _ => Memory.blank
  | c :: rest, a => if c.1 = a then c.2 else readCells rest a

/-- Put byte `b` at offset `a` of a rising cell list; the blank value takes the cell out. -/
def writeCells : List Host.Cell → Nat → Byte → List Host.Cell
  | [], a, b => if b = Memory.blank then [] else [(a, b)]
  | c :: rest, a, b =>
    if a < c.1 then (if b = Memory.blank then c :: rest else (a, b) :: c :: rest)
    else if a = c.1 then (if b = Memory.blank then rest else (a, b) :: rest)
    else c :: writeCells rest a b

/-- The byte at offset `a`. -/
def Memory.read (m : Memory) (a : Nat) : Byte := readCells m.cells a

/-- Store byte `b` at offset `a`. -/
def Memory.write (m : Memory) (a : Nat) (b : Byte) : Memory := { cells := writeCells m.cells a b }

/-- The canonical form: addresses strictly rising, no cell equal to what an unlisted address reads as. -/
def Memory.wf (m : Memory) : Bool :=
  decide (m.cells.Pairwise fun c d => c.1 < d.1) && m.cells.all fun c => c.2 != Memory.blank

/-- Every listed cell lies below offset `size`. -/
def Memory.inside (m : Memory) (size : Nat) : Bool := m.cells.all fun c => decide (c.1 < size)

/-- The first `size` bytes in ascending offset: a frame as the consumer receives it (49_graphics.md R226). -/
def Memory.bytes (m : Memory) (size : Nat) : List Byte := (List.range size).map m.read

/-! ### Registers and the instruction pointer -/

/-- `x[i]` (00_scope.md R10). -/
def State.readReg (s : State) (i : Fin 64) : Byte := s.x[i.val]

/-- `x[i] <- v`; no cell is hard-wired (10_state.md R21). -/
def State.writeReg (s : State) (i : Fin 64) (v : Byte) : State := { s with x := s.x.set i.val v i.isLt }

/-- `pc <- t`; the bound is checked at the next fetch, not here (10_state.md R22). -/
def State.setPc (s : State) (t : Nat) : State := { s with pc := t }

/-- `if c then pc <- addr`: an absolute target, one operand byte (45_branch.md R175). -/
def State.jumpIf (s : State) (c : Bool) (addr : Byte) : State := if c then s.setPc addr.toNat else s

/-! ### The end of a run -/

/-- What `raise <Fault>`, `Halt` and an accepted stop request do, completely: `run <- Halted(reason)`,
`chan_open <- false` (60_exceptions.md R245, R246, R247). There is no handler, no saved register and no return from a
fault (R240, R248), so there is no operation that undoes this one. -/
def State.terminate (s : State) (why : Reason) : State := { s with run := .halted why, chanOpen := false }

/-- The numeric code of a termination reason (60_exceptions.md R241; labels of the spec's own, D7, log 6). -/
def Reason.code : Reason → Nat
  | .halt => 0
  | .decodeError => 1
  | .programBoundsError => 2
  | .registerRangeError => 3
  | .frameBoundsError => 4
  | .arithmeticError => 5
  | .callStackError => 6
  | .stopped => 7

/-- Whether a termination reason is one of the six faults (60_exceptions.md R241, column "kind"). -/
def Reason.isFault : Reason → Bool
  | .halt => false
  | .decodeError => true
  | .programBoundsError => true
  | .registerRangeError => true
  | .frameBoundsError => true
  | .arithmeticError => true
  | .callStackError => true
  | .stopped => false

/-! ### Stacks -/

/-- `push(ds, v)` (10_state.md R25): no depth limit (D11, log 10). -/
def State.pushData (s : State) (v : Byte) : State := { s with ds := s.ds ++ [v] }

/-- What `pop(ds)` yields: the last element, or 0 from the empty stack (47_stack.md R201). -/
def State.topData (s : State) : Byte := s.ds.getLast?.getD 0

/-- `ds` less its last element; the empty stack stays empty (47_stack.md R201). -/
def State.dropData (s : State) : State := { s with ds := s.ds.dropLast }

/-- The three writes of `Call` (46_call_return.md R190); `pc` is past the operand already. -/
def State.enterCall (s : State) (target : Nat) : State :=
  { s with cs := s.cs ++ [s.rs], rs := some s.pc, pc := target }

/-- The popped element becomes the slot; from an empty `cs` the slot becomes empty (46_call_return.md R191; R192, D17,
log 16). `a` is the address the slot held before. -/
def State.leaveCall (s : State) (a : Nat) : State :=
  { s with pc := a, rs := s.cs.getLast?.getD none, cs := s.cs.dropLast }

/-! ### The Clock -/

/-- What `now()` answers next: the latest answer plus an advance, so answers never go back (60_exceptions.md R257). The
advance is the mock clock's next one, or the free value. Log 8. -/
def State.clockAnswer (s : State) : Nat :=
  match s.clockScript with
  | d :: _ => s.clock + d
  | [] => s.clock + Config.clockAdvance s.clockReads

/-- The state after one reading of the Clock; only the model's own clock fields move (20_memory.md R68). -/
def State.readClock (s : State) : State :=
  { s with clock := s.clockAnswer, clockReads := s.clockReads + 1, clockScript := s.clockScript.tail }

/-- `t_last <- t` (45_branch.md R176). -/
def State.setThrottle (s : State) (t : Nat) : State := { s with tLast := t }

/-! ### Diagnostic output -/

/-- `diag(radix, v)`: append an event (10_state.md R31, 48_io.md R213). -/
def State.emit (s : State) (radix : Radix) (v : Byte) : State := { s with diag := s.diag ++ [(radix, v)] }

/-! ### Graphics -/

/-- `v[hi:lo] = (v >> lo) mod 2^(hi-lo+1)` (00_scope.md R9). -/
def bitField (v : Byte) (hi lo : Nat) : Nat := (v.toNat >>> lo) % 2 ^ (hi - lo + 1)

/-- A pixel's four bytes in ascending offset (20_memory.md R64). -/
structure Rgba where
  red : Byte
  green : Byte
  blue : Byte
  alpha : Byte
deriving DecidableEq, Repr

/-- Colour expansion of the packed byte RRRGGGBB (49_graphics.md R220; green from bits 4:2 by C1, log 21). -/
def expand (v : Byte) : Rgba where
  red := BitVec.ofNat 8 (36 * bitField v 7 5)
  green := BitVec.ofNat 8 (36 * bitField v 4 2)
  blue := BitVec.ofNat 8 (85 * bitField v 1 0)
  alpha := 255

/-- The offset of pixel (xv, yv), natural-number arithmetic without wrap (49_graphics.md R221, 20_memory.md R62). -/
def pixelOffset (width xv yv : Nat) : Nat := (xv + yv * width) * 4

/-- Four bytes at offsets `a` to `a+3` in the order red, green, blue, alpha (00_scope.md R10). -/
def Memory.writePixel (m : Memory) (a : Nat) (c : Rgba) : Memory :=
  (((m.write a c.red).write (a + 1) c.green).write (a + 2) c.blue).write (a + 3) c.alpha

/-- `putpixel(xv, yv, v)` (49_graphics.md R221): each coordinate is checked (C2, log 22), then the pixel is replaced. -/
def State.putPixel (s : State) (xv yv v : Byte) : State :=
  if s.cfg.width ≤ xv.toNat ∨ s.cfg.height ≤ yv.toNat then s.terminate .frameBoundsError
  else { s with fb := s.fb.writePixel (pixelOffset s.cfg.width xv.toNat yv.toNat) (expand v) }

/-- The effect of `Draw` (49_graphics.md R225): a copy of `fb` overwrites the mailbox, whoever listens (D15, log 14). -/
def State.sendFrame (s : State) : State := { s with mbox := some s.fb, framesSent := s.framesSent + 1 }

/-! ### Steps of the other agents -/

/-- The latch bit of button port `k`: `1 << k` (60_exceptions.md R258). -/
def latchBit (k : Fin 8) : Byte := BitVec.ofNat 8 (2 ^ k.val)

/-- `press(k)`: `ctrl <- ctrl | (1 << k)` (60_exceptions.md R263). -/
def State.press (s : State) (k : Fin 8) : State := { s with ctrl := s.ctrl ||| latchBit k }

/-- `release(k)`: `ctrl <- ctrl & ~(1 << k)` (60_exceptions.md R264). -/
def State.release (s : State) (k : Fin 8) : State := { s with ctrl := s.ctrl &&& ~~~ latchBit k }

/-- What `take()` answers (60_exceptions.md R259). -/
def State.takeAnswer (s : State) : TakeResult :=
  match s.mbox with
  | some f => .frame f
  | none => if s.chanOpen then .empty else .closed

/-- `take()`: the mailbox is empty afterwards (60_exceptions.md R259, R265); the answer goes into the model's log. -/
def State.take (s : State) : State := { s with mbox := none, taken := s.taken ++ [s.takeAnswer] }

/-- The Host's `stop()`: `stop_req <- true` (60_exceptions.md R266). -/
def State.requestStop (s : State) : State := { s with stopReq := true }

/-! ### The schedule -/

/-- The agent and action that the schedule names next: the listed move, else the endless part's (60_exceptions.md R268). -/
def State.nextMove (s : State) : Move :=
  match s.sched with
  | m :: _ => m
  | [] =>
    match s.recurrence with
    | .cycle [] => .engine
    | .cycle (m :: _) => m
    | .free => Config.freeMove s.movesDrawn

/-- The listed moves after the next one is taken; an endless cycle is entered by listing what follows its first move. -/
def State.schedAfter (s : State) : List Move :=
  match s.sched with
  | _ :: ms => ms
  | [] =>
    match s.recurrence with
    | .cycle ms => ms.tail
    | .free => []

/-- The count of free moves after the next one is taken. -/
def State.drawnAfter (s : State) : Nat :=
  match s.sched with
  | _ :: _ => s.movesDrawn
  | [] =>
    match s.recurrence with
    | .cycle _ => s.movesDrawn
    | .free => s.movesDrawn + 1

/-- The state with the next move taken off the schedule; only the model's own schedule fields move. -/
def State.advance (s : State) : State := { s with sched := s.schedAfter, movesDrawn := s.drawnAfter }

end Sys2Proof.Machine
end

