-- ==== Sys2Proof/Machine/Operands.lean ====
section
/-! DEFINITION. Operand forms: register operands are validated in stream order before anything is read or written. -/

namespace Sys2Proof.Machine

open Sys2Proof

/-- `reg(i)`: the cell an operand byte names, none when it is 64 or more (00_scope.md R10, 10_state.md R21). -/
def regIndex (o : Byte) : Option (Fin 64) := if h : o.toNat < 64 then some ⟨o.toNat, h⟩ else none

/-- One register operand: `RegisterRangeError` when its byte is 64 or more, else go on with the cell
(30_encoding.md R92). -/
def withReg (o : Byte) (s : State) (run : Fin 64 → State) : State :=
  match regIndex o with
  | some i => run i
  | none => s.terminate .registerRangeError

/-- Two register operands, validated in stream order (30_encoding.md R92, 60_exceptions.md R244; D6, log 5). -/
def withRegs2 (o1 o2 : Byte) (s : State) (run : Fin 64 → Fin 64 → State) : State :=
  withReg o1 s fun i => withReg o2 s fun j => run i j

/-- Three register operands, validated in stream order (30_encoding.md R92, 60_exceptions.md R244; D6, log 5). -/
def withRegs3 (o1 o2 o3 : Byte) (s : State) (run : Fin 64 → Fin 64 → Fin 64 → State) : State :=
  withReg o1 s fun i => withReg o2 s fun j => withReg o3 s fun k => run i j k

end Sys2Proof.Machine
end

