-- ==== Sys2Proof/Machine/Arithmetic.lean ====
section
/-! DEFINITION. Add, Sub, Mul, Div (42_arithmetic.md) and Inc, Dec (44_incdec.md). None writes a flag (R144). -/

namespace Sys2Proof.Machine

open Sys2Proof

/-- `Add dst, a, b`: the sum mod 256 (42_arithmetic.md R140). -/
def execAdd (dst a b : Byte) (s : State) : Result :=
  .next (withRegs3 dst a b s fun d p q => s.writeReg d (s.readReg p + s.readReg q))

/-- `Sub dst, a, b`: minuend `a`, subtrahend `b`, the non-negative residue mod 256 (42_arithmetic.md R141). -/
def execSub (dst a b : Byte) (s : State) : Result :=
  .next (withRegs3 dst a b s fun d p q => s.writeReg d (s.readReg p - s.readReg q))

/-- `Mul dst, a, b`: the low 8 bits of the product (42_arithmetic.md R142). -/
def execMul (dst a b : Byte) (s : State) : Result :=
  .next (withRegs3 dst a b s fun d p q => s.writeReg d (s.readReg p * s.readReg q))

/-- `Div dst, a, b`: `ArithmeticError` on a zero divisor with nothing written, else the unsigned truncated quotient
(42_arithmetic.md R143; D5, log 4). -/
def execDiv (dst a b : Byte) (s : State) : Result :=
  .next (withRegs3 dst a b s fun d p q =>
    if s.readReg q = 0 then s.terminate .arithmeticError
    else s.writeReg d (BitVec.ofNat 8 ((s.readReg p).toNat / (s.readReg q).toNat)))

/-- `Inc r`: plus 1 mod 256 (44_incdec.md R160). -/
def execInc (r : Byte) (s : State) : Result :=
  .next (withReg r s fun i => s.writeReg i (s.readReg i + 1))

/-- `Dec r`: minus 1 mod 256 (44_incdec.md R161). -/
def execDec (r : Byte) (s : State) : Result :=
  .next (withReg r s fun i => s.writeReg i (s.readReg i - 1))

end Sys2Proof.Machine
end

