-- ==== Sys2Proof/Machine/Branch.lean ====
section
/-! DEFINITION. Jump, Jeq, Jneq, Jz, Jnz, JumpDt (45_branch.md). Targets are absolute bytes; none can fault (R175). -/

namespace Sys2Proof.Machine

open Sys2Proof

/-- `Jump addr` (45_branch.md R170). -/
def execJump (addr : Byte) (s : State) : Result := .next (s.setPc addr.toNat)

/-- `Jeq addr`: taken iff `eq` (45_branch.md R171). -/
def execJeq (addr : Byte) (s : State) : Result := .next (s.jumpIf s.eqFlag addr)

/-- `Jneq addr`: taken iff not `eq` (45_branch.md R172). -/
def execJneq (addr : Byte) (s : State) : Result := .next (s.jumpIf (!s.eqFlag) addr)

/-- `Jz addr`: taken iff `zf` (45_branch.md R173). -/
def execJz (addr : Byte) (s : State) : Result := .next (s.jumpIf s.zeroFlag addr)

/-- `Jnz addr`: taken iff not `zf` (45_branch.md R174). -/
def execJnz (addr : Byte) (s : State) : Result := .next (s.jumpIf (!s.zeroFlag) addr)

/-- `JumpDt addr`: one clock reading `t`; while `t - t_last < PERIOD` the jump is taken, otherwise `t_last <- t`
(45_branch.md R176, R177; elapsed time from the last reset by C3, log 23; the reading is D9, log 8). -/
def execJumpDt (addr : Byte) (s : State) : Result :=
  .next (if s.clockAnswer - s.tLast < s.cfg.period then s.readClock.setPc addr.toNat
    else s.readClock.setThrottle s.clockAnswer)

end Sys2Proof.Machine
end

