-- ==== Sys2Proof/Machine/CallReturn.lean ====
section
/-! DEFINITION. Call, Ret (46_call_return.md). -/

namespace Sys2Proof.Machine

open Sys2Proof

/-- `Call addr` (46_call_return.md R190). -/
def execCall (addr : Byte) (s : State) : Result := .next (s.enterCall addr.toNat)

/-- `Ret`: `CallStackError` on an empty slot, else to the address the slot held before the pop (46_call_return.md R191,
R192). -/
def execRet (s : State) : Result :=
  .next (match s.rs with
    | none => s.terminate .callStackError
    | some a => s.leaveCall a)

end Sys2Proof.Machine
end

