-- ==== Sys2Proof/Machine/Graphics.lean ====
section
/-! DEFINITION. Color, ColorI, Draw (49_graphics.md). -/

namespace Sys2Proof.Machine

open Sys2Proof

/-- `Color x, y, c`: all three operands are registers (49_graphics.md R222). -/
def execColor (x y c : Byte) (s : State) : Result :=
  .next (withRegs3 x y c s fun i j k => s.putPixel (s.readReg i) (s.readReg j) (s.readReg k))

/-- `ColorI x, y, imm`: the packed colour is the literal (49_graphics.md R223). -/
def execColorI (x y imm : Byte) (s : State) : Result :=
  .next (withRegs2 x y s fun i j => s.putPixel (s.readReg i) (s.readReg j) imm)

/-- `Draw` (49_graphics.md R225). -/
def execDraw (s : State) : Result := .next s.sendFrame

end Sys2Proof.Machine
end

