-- ==== Sys2Proof/Machine/InputOutput.lean ====
section
/-! DEFINITION. Input, Print, PrintB (48_io.md). -/

namespace Sys2Proof.Machine

open Sys2Proof

/-- `Input r`: one atomic read of the latch, which keeps its value (48_io.md R210). -/
def execInput (r : Byte) (s : State) : Result :=
  .next (withReg r s fun i => s.writeReg i s.ctrl)

/-- `Print r`: append `(Dec, x[r])` (48_io.md R211). -/
def execPrint (r : Byte) (s : State) : Result :=
  .next (withReg r s fun i => s.emit .dec (s.readReg i))

/-- `PrintB r`: append `(Bin, x[r])` (48_io.md R212). -/
def execPrintB (r : Byte) (s : State) : Result :=
  .next (withReg r s fun i => s.emit .bin (s.readReg i))

end Sys2Proof.Machine
end

