-- ==== Sys2Proof/Machine/Flags.lean ====
section
/-! DEFINITION. The two flags: each is overwritten unconditionally by the instructions that define it (10_state.md R24). -/

namespace Sys2Proof.Machine

open Sys2Proof

/-- `eq <- (a = b)` (43_logic_compare.md R154). -/
def State.setEqual (s : State) (a b : Byte) : State := { s with eqFlag := decide (a = b) }

/-- `zf <- (v = 0)` (43_logic_compare.md R150 to R153). -/
def State.setZero (s : State) (v : Byte) : State := { s with zeroFlag := decide (v = 0) }

/-- `x[d] <- v; zf <- (v = 0)`: how every bitwise instruction ends (43_logic_compare.md R150 to R153). -/
def State.writeLogic (s : State) (d : Fin 64) (v : Byte) : State := (s.writeReg d v).setZero v

end Sys2Proof.Machine
end

