-- ==== Sys2Proof/Machine/Logic.lean ====
section
/-! DEFINITION. And, Or, Xor, AndI, Comp (43_logic_compare.md). -/

namespace Sys2Proof.Machine

open Sys2Proof

/-- `And dst, a, b` (43_logic_compare.md R150). -/
def execAnd (dst a b : Byte) (s : State) : Result :=
  .next (withRegs3 dst a b s fun d p q => s.writeLogic d (s.readReg p &&& s.readReg q))

/-- `Or dst, a, b` (43_logic_compare.md R151). -/
def execOr (dst a b : Byte) (s : State) : Result :=
  .next (withRegs3 dst a b s fun d p q => s.writeLogic d (s.readReg p ||| s.readReg q))

/-- `Xor dst, a, b` (43_logic_compare.md R152). -/
def execXor (dst a b : Byte) (s : State) : Result :=
  .next (withRegs3 dst a b s fun d p q => s.writeLogic d (s.readReg p ^^^ s.readReg q))

/-- `AndI dst, src, imm`: the literal is never range-checked (43_logic_compare.md R153). -/
def execAndI (dst src imm : Byte) (s : State) : Result :=
  .next (withRegs2 dst src s fun d p => s.writeLogic d (s.readReg p &&& imm))

/-- `Comp a, b`: writes `eq` and no register (43_logic_compare.md R154). -/
def execComp (a b : Byte) (s : State) : Result :=
  .next (withRegs2 a b s fun p q => s.setEqual (s.readReg p) (s.readReg q))

end Sys2Proof.Machine
end

