-- ==== Sys2Proof/Machine/Move.lean ====
section
/-! DEFINITION. LoadI, LoadR (41_move.md). -/

namespace Sys2Proof.Machine

open Sys2Proof

/-- `LoadI dst, imm`: `x[dst] <- imm` (41_move.md R130). -/
def execLoadI (dst imm : Byte) (s : State) : Result :=
  .next (withReg dst s fun d => s.writeReg d imm)

/-- `LoadR dst, src`: `x[dst] <- x[src]` (41_move.md R131). -/
def execLoadR (dst src : Byte) (s : State) : Result :=
  .next (withRegs2 dst src s fun d p => s.writeReg d (s.readReg p))

end Sys2Proof.Machine
end

