-- ==== Sys2Proof/Machine/Stack.lean ====
section
/-! DEFINITION. Push, Pop (47_stack.md). -/

namespace Sys2Proof.Machine

open Sys2Proof

/-- `Push r` (47_stack.md R200). -/
def execPush (r : Byte) (s : State) : Result :=
  .next (withReg r s fun i => s.pushData (s.readReg i))

/-- `Pop r`: 0 from the empty stack, no fault; the index is checked before the stack is touched (47_stack.md R201). -/
def execPop (r : Byte) (s : State) : Result :=
  .next (withReg r s fun i => s.dropData.writeReg i s.topData)

end Sys2Proof.Machine
end

