-- ==== Sys2Proof/Machine/System.lean ====
section
/-! DEFINITION. Halt, Illegal, Nop (40_system.md). -/

namespace Sys2Proof.Machine

open Sys2Proof

/-- `Halt`: terminate the loop normally (40_system.md R120). -/
def execHalt (s : State) : Result := .next (s.terminate .halt)

/-- `Illegal`: raise `DecodeError`, whatever the opcode byte (40_system.md R121); the reason carries no payload
(60_exceptions.md R243). -/
def execIllegal (_op : Byte) (s : State) : Result := .next (s.terminate .decodeError)

/-- `Nop`: no effect (40_system.md R122). -/
def execNop (s : State) : Result := .next s

end Sys2Proof.Machine
end

