-- ==== Sys2Proof/Machine/Dispatch.lean ====
section
/-! DEFINITION. One arm per instruction: each is one direct call of its meaning. -/

namespace Sys2Proof.Machine

open Sys2Proof

-- The execute part of an instruction (00_scope.md R11), at a state whose pc is past the instruction's last byte.
def exec (i : Instr) (s : State) : Host.Outcome State Fault Refusal :=
  match i with
  | .halt => Sys2Proof.Machine.execHalt s
  | .loadI dst imm => Sys2Proof.Machine.execLoadI dst imm s
  | .add dst a b => Sys2Proof.Machine.execAdd dst a b s
  | .print r => Sys2Proof.Machine.execPrint r s
  | .nop => Sys2Proof.Machine.execNop s
  | .jump addr => Sys2Proof.Machine.execJump addr s
  | .loadR dst src => Sys2Proof.Machine.execLoadR dst src s
  | .jeq addr => Sys2Proof.Machine.execJeq addr s
  | .comp a b => Sys2Proof.Machine.execComp a b s
  | .jneq addr => Sys2Proof.Machine.execJneq addr s
  | .color x y c => Sys2Proof.Machine.execColor x y c s
  | .inc r => Sys2Proof.Machine.execInc r s
  | .dec r => Sys2Proof.Machine.execDec r s
  | .call addr => Sys2Proof.Machine.execCall addr s
  | .ret => Sys2Proof.Machine.execRet s
  | .input r => Sys2Proof.Machine.execInput r s
  | .and dst a b => Sys2Proof.Machine.execAnd dst a b s
  | .xor dst a b => Sys2Proof.Machine.execXor dst a b s
  | .or dst a b => Sys2Proof.Machine.execOr dst a b s
  | .sub dst a b => Sys2Proof.Machine.execSub dst a b s
  | .div dst a b => Sys2Proof.Machine.execDiv dst a b s
  | .mul dst a b => Sys2Proof.Machine.execMul dst a b s
  | .jz addr => Sys2Proof.Machine.execJz addr s
  | .jnz addr => Sys2Proof.Machine.execJnz addr s
  | .printB r => Sys2Proof.Machine.execPrintB r s
  | .andI dst src imm => Sys2Proof.Machine.execAndI dst src imm s
  | .colorI x y imm => Sys2Proof.Machine.execColorI x y imm s
  | .draw => Sys2Proof.Machine.execDraw s
  | .push r => Sys2Proof.Machine.execPush r s
  | .pop r => Sys2Proof.Machine.execPop r s
  | .jumpDt addr => Sys2Proof.Machine.execJumpDt addr s
  | .illegal op => Sys2Proof.Machine.execIllegal op s

end Sys2Proof.Machine
end

