-- ==== Sys2Proof/Decode.lean ====
section
/-! DEFINITION. The decoder, total on any bytes, and the encoder. -/

namespace Sys2Proof

/-- The opcode map: the k-th name has opcode k (30_encoding.md R94). DESIGN CHOICE of the spec (D1, C6), unsafe, log 1;
kept as one table so that another numbering is a change of this list alone. -/
def opcodeMap : List Tag :=
  [.halt, .loadI, .add, .print, .nop, .jump, .loadR, .jeq,
   .comp, .jneq, .color, .inc, .dec, .call, .ret, .input,
   .and, .xor, .or, .sub, .div, .mul, .jz, .jnz,
   .printB, .andI, .colorI, .draw, .push, .pop, .jumpDt]

/-- The Instruction Decoder's opcode lookup: total, no state, `illegal` outside the table (30_encoding.md R93). -/
def decodeTag (op : Byte) : Tag := opcodeMap.getD op.toNat .illegal

/-- The opcode byte of a tag of the table. -/
def opcodeOf (t : Tag) : Byte := BitVec.ofNat 8 (opcodeMap.idxOf t)

/-- Operand-byte count, a function of the opcode alone (30_encoding.md R95). -/
def nops : Tag → Nat
  | .halt => 0
  | .loadI => 2
  | .add => 3
  | .print => 1
  | .nop => 0
  | .jump => 1
  | .loadR => 2
  | .jeq => 1
  | .comp => 2
  | .jneq => 1
  | .color => 3
  | .inc => 1
  | .dec => 1
  | .call => 1
  | .ret => 0
  | .input => 1
  | .and => 3
  | .xor => 3
  | .or => 3
  | .sub => 3
  | .div => 3
  | .mul => 3
  | .jz => 1
  | .jnz => 1
  | .printB => 1
  | .andI => 3
  | .colorI => 3
  | .draw => 0
  | .push => 1
  | .pop => 1
  | .jumpDt => 1
  | .illegal => 0

/-- Operand byte `o_k` (k = 0, 1, 2 here) of a fetched operand list. -/
def operand (os : List Byte) (k : Nat) : Byte := os.getD k 0

/-- The instruction that an opcode byte and its fetched operand bytes stand for: the operand roles of 30_encoding.md R97. -/
def assemble (op : Byte) (os : List Byte) : Instr :=
  match decodeTag op with
  | .halt => .halt
  | .loadI => .loadI (operand os 0) (operand os 1)
  | .add => .add (operand os 0) (operand os 1) (operand os 2)
  | .print => .print (operand os 0)
  | .nop => .nop
  | .jump => .jump (operand os 0)
  | .loadR => .loadR (operand os 0) (operand os 1)
  | .jeq => .jeq (operand os 0)
  | .comp => .comp (operand os 0) (operand os 1)
  | .jneq => .jneq (operand os 0)
  | .color => .color (operand os 0) (operand os 1) (operand os 2)
  | .inc => .inc (operand os 0)
  | .dec => .dec (operand os 0)
  | .call => .call (operand os 0)
  | .ret => .ret
  | .input => .input (operand os 0)
  | .and => .and (operand os 0) (operand os 1) (operand os 2)
  | .xor => .xor (operand os 0) (operand os 1) (operand os 2)
  | .or => .or (operand os 0) (operand os 1) (operand os 2)
  | .sub => .sub (operand os 0) (operand os 1) (operand os 2)
  | .div => .div (operand os 0) (operand os 1) (operand os 2)
  | .mul => .mul (operand os 0) (operand os 1) (operand os 2)
  | .jz => .jz (operand os 0)
  | .jnz => .jnz (operand os 0)
  | .printB => .printB (operand os 0)
  | .andI => .andI (operand os 0) (operand os 1) (operand os 2)
  | .colorI => .colorI (operand os 0) (operand os 1) (operand os 2)
  | .draw => .draw
  | .push => .push (operand os 0)
  | .pop => .pop (operand os 0)
  | .jumpDt => .jumpDt (operand os 0)
  | .illegal => .illegal op

/-- Why a byte sequence does not hold a whole instruction. -/
inductive DecodeRefusal where
  /-- There is no opcode byte. Safe: at fetch the machine raises `ProgramBoundsError` (30_encoding.md R92). -/
  | noOpcode
  /-- An operand byte is missing. Safe: at fetch the machine raises `ProgramBoundsError` (30_encoding.md R92). -/
  | missingOperand
deriving DecidableEq, Repr

/-- The decoder's answer. -/
inductive Decoded where
  /-- The first instruction of the bytes, and the bytes after it. -/
  | ok (i : Instr) (rest : List Byte)
  /-- The bytes end before the instruction does. -/
  | refused (why : DecodeRefusal)
deriving DecidableEq, Repr

/-- The instruction at the head of a byte sequence: one opcode byte, then the operand bytes its tag has
(30_encoding.md R90, R99). -/
def decode : List Byte → Decoded
  | [] => .refused .noOpcode
  | op :: rest =>
    if rest.length < nops (decodeTag op) then .refused .missingOperand
    else .ok (assemble op (rest.take (nops (decodeTag op)))) (rest.drop (nops (decodeTag op)))

/-- The opcode byte of an instruction; `illegal` keeps the byte it was decoded from. -/
def opcodeByte : Instr → Byte
  | .halt => opcodeOf .halt
  | .loadI _ _ => opcodeOf .loadI
  | .add _ _ _ => opcodeOf .add
  | .print _ => opcodeOf .print
  | .nop => opcodeOf .nop
  | .jump _ => opcodeOf .jump
  | .loadR _ _ => opcodeOf .loadR
  | .jeq _ => opcodeOf .jeq
  | .comp _ _ => opcodeOf .comp
  | .jneq _ => opcodeOf .jneq
  | .color _ _ _ => opcodeOf .color
  | .inc _ => opcodeOf .inc
  | .dec _ => opcodeOf .dec
  | .call _ => opcodeOf .call
  | .ret => opcodeOf .ret
  | .input _ => opcodeOf .input
  | .and _ _ _ => opcodeOf .and
  | .xor _ _ _ => opcodeOf .xor
  | .or _ _ _ => opcodeOf .or
  | .sub _ _ _ => opcodeOf .sub
  | .div _ _ _ => opcodeOf .div
  | .mul _ _ _ => opcodeOf .mul
  | .jz _ => opcodeOf .jz
  | .jnz _ => opcodeOf .jnz
  | .printB _ => opcodeOf .printB
  | .andI _ _ _ => opcodeOf .andI
  | .colorI _ _ _ => opcodeOf .colorI
  | .draw => opcodeOf .draw
  | .push _ => opcodeOf .push
  | .pop _ => opcodeOf .pop
  | .jumpDt _ => opcodeOf .jumpDt
  | .illegal op => op

/-- The bytes of an instruction: the opcode byte at the lowest offset, then the operand bytes (30_encoding.md R90, R91). -/
def encode (i : Instr) : List Byte := opcodeByte i :: i.operands

/-- Byte `k` of a word whose bits are numbered from the first byte's bit 0. -/
def wordByte (w k : Nat) : Byte := BitVec.ofNat 8 (w >>> (8 * k))

/-- The four bytes of the longest instruction's width, taken from a table word of `nbits` bits; the bits above `nbits`
are 0. -/
def tableBytes (nbits w : Nat) : List Byte :=
  [wordByte (w % 2 ^ nbits) 0, wordByte (w % 2 ^ nbits) 1, wordByte (w % 2 ^ nbits) 2, wordByte (w % 2 ^ nbits) 3]

/-- The instruction the decoder reads from a word of spec/opcode_table.json. -/
def decodeTableWord (nbits w : Nat) : Option Instr :=
  match decode (tableBytes nbits w) with
  | .ok i _ => some i
  | .refused _ => none

end Sys2Proof
end

