-- ==== Sys2Proof/Machine/Fetch.lean ====
section
/-! DEFINITION. Instruction fetch, byte by byte, and where an instruction's bytes are placed so that it is fetched. -/

namespace Sys2Proof.Machine

open Sys2Proof

/-- A fetch that went through, with the state after it, or that raised a fault. -/
inductive Fetched (α : Type) where
  | got (v : α) (s : State)
  | raised (s : State)

/-- `fetch8()` (00_scope.md R10): the bound is checked at each byte (10_state.md R22). -/
def fetch8 (s : State) : Fetched Byte :=
  match s.cfg.prog[s.pc]? with
  | some b => .got b (s.setPc (s.pc + 1))
  | none => .raised (s.terminate .programBoundsError)

/-- Fetch `n` operand bytes in ascending offset (30_encoding.md R92). -/
def fetchOperands : Nat → State → Fetched (List Byte)
  | 0, s => .got [] s
  | n + 1, s =>
    match fetch8 s with
    | .raised t => .raised t
    | .got b t =>
      match fetchOperands n t with
      | .raised u => .raised u
      | .got bs u => .got (b :: bs) u

/-- The fetch and decode part of every engine step (30_encoding.md R92): the opcode is decoded before any operand is
fetched, and an `Illegal` has no operand. -/
def fetchInstr (s : State) : Fetched Instr :=
  match fetch8 s with
  | .raised t => .raised t
  | .got op t =>
    match fetchOperands (nops (decodeTag op)) t with
    | .raised u => .raised u
    | .got os u => .got (assemble op os) u

/-- A program with `bytes` at offset `a`; a shorter program is filled up with zeros to there. -/
def placeBytes (prog : List Byte) (a : Nat) (bytes : List Byte) : List Byte :=
  prog.take a ++ List.replicate (a - prog.length) 0 ++ bytes ++ prog.drop (a + bytes.length)

/-- Listed moves that, before the given endless part, have the Engine as the agent that moves next. -/
def engineFirst : List Move → Recurrence → List Move
  | [], .cycle [] => []
  | [], .cycle (.engine :: _) => []
  | [], _ => [.engine]
  | .engine :: ms, _ => .engine :: ms
  | m :: ms, _ => .engine :: m :: ms

end Sys2Proof.Machine
end

