-- ==== Sys2Proof/Machine/Engine.lean ====
section
/-! DEFINITION. One step of the Engine, and one move of whichever agent the schedule names. -/

namespace Sys2Proof.Machine

open Sys2Proof

/-- Engine step (60_exceptions.md R262): enabled iff running; the stop check comes first (R246), then fetch and decode
(30_encoding.md R92), then the instruction's own meaning, with `pc` past its last byte. -/
def engineStep (s : State) : Result :=
  match s.run with
  | .halted why => .fault (.runEnded why)
  | .running =>
    if s.stopReq then .next (s.terminate .stopped)
    else
      match fetchInstr s with
      | .raised t => .next t
      | .got i t => exec i t

/-- One atomic step of the agent a move names (60_exceptions.md R262 to R266). -/
def moveStep (m : Move) (s : State) : Result :=
  match m with
  | .engine => engineStep s
  | .press k => .next (s.press k)
  | .release k => .next (s.release k)
  | .take => .next s.take
  | .stop => .next s.requestStop

/-- The next step of the whole block: the step of the agent that the schedule names (60_exceptions.md R268; log 18). -/
def scheduledStep (s : State) : Result := moveStep s.nextMove s.advance

end Sys2Proof.Machine
end

