-- ==== Sys2Proof/Machine/Step.lean ====
section
/-! DEFINITION. The step of the machine, and how the host places an instruction where the next step fetches it. -/

namespace Sys2Proof.Machine

open Sys2Proof

/-- One step: of the agent that the schedule names. -/
def step (s : State) : Result := scheduledStep s

/-- `s` with an instruction's bytes at `pc`, running, not asked to stop, and with the Engine to move next, so that the next
step fetches and runs it. It stands for the program's load from outside the machine (70_reset_and_hazards.md R294, log 20). -/
def State.withFetchWord (s : State) (nbits w : Nat) : State :=
  { s with
    cfg := { s.cfg with prog := placeBytes s.cfg.prog s.pc (tableBytes nbits w) }
    run := .running
    stopReq := false
    sched := engineFirst s.sched s.recurrence }

end Sys2Proof.Machine
end

