-- ==== Sys2Proof/Machine/HostPort.lean ====
section
/-! DEFINITION. The host's ports construct (a first engine, or a further one on the same latch), load and the result of run
(10_state.md R39, 70_reset_and_hazards.md R293, 60_exceptions.md R272). -/

namespace Sys2Proof.Machine

open Sys2Proof

/-- `construct(WIDTH, HEIGHT, f)` (10_state.md R39), the first in the process: a frequency of 0 is refused, no engine exists; otherwise the reset
state with PERIOD left to `Config.periodTicks` (92_eei_decisions.md D10, log 9). The frequency is a natural number of
hertz: DESIGN CHOICE, unsafe, log 29. -/
def constructAtFrequency (width height f t0 : Nat) : Result :=
  if f = 0 then .refused .zeroFrequency
  else .next (State.construct width height (Config.periodTicks f) t0)

/-- A second engine constructed on the latch that `s` holds, the one piece of state that outlives an engine: it keeps the
value the Input Producer left, and every other piece is at its reset value (70_reset_and_hazards.md R293; D20, log 19).
T0 is a reading of the process's own Clock, whose record goes on (60_exceptions.md R257, log 8). -/
def State.reconstruct (s : State) (width height period : Nat) : State :=
  { State.construct width height period s.clockAnswer with
    ctrl := s.ctrl
    clockReads := s.clockReads + 1
    clockScript := s.clockScript.tail }

/-- `construct(WIDTH, HEIGHT, f)` when the process has had an engine before (70_reset_and_hazards.md R293); a frequency of
0 is refused as in the first construction (92_eei_decisions.md D10, log 9; a natural number of hertz, log 29). -/
def reconstructAtFrequency (s : State) (width height f : Nat) : Result :=
  if f = 0 then .refused .zeroFrequency
  else .next (s.reconstruct width height (Config.periodTicks f))

/-- `load(PROG)`: fixes the program, once, before the run (10_state.md R39, 70_reset_and_hazards.md R294). -/
def State.load (s : State) (prog : List Byte) : State := { s with cfg := { s.cfg with prog := prog } }

/-- What `run()` returns to the host: the reason, once the run has ended (60_exceptions.md R269). -/
def State.result (s : State) : Option Reason :=
  match s.run with
  | .running => none
  | .halted why => some why

end Sys2Proof.Machine
end

