-- ==== Sys2Proof/Safety.lean ====
section
/-! DEFINITION. What claims about runs speak of: the invariant of reachable states, the conventional reading of the call
state, what a program can observe, and what counts as a safe run. -/

namespace Sys2Proof.Machine

open Sys2Proof

/-- A frame buffer or frame of FB_SIZE bytes in canonical form. -/
def Memory.fits (m : Memory) (c : Config) : Prop := m.wf = true ∧ m.inside c.fbSize = true

/-- The invariant of the call state (10_state.md R27): the slot is empty exactly when `cs` is, the bottom of `cs` is the
empty slot saved by the outermost call, and every element above it holds an address. -/
def CallsBalanced (rs : Option Nat) (cs : List (Option Nat)) : Prop :=
  (rs = none ↔ cs = []) ∧ (∀ slot, cs.head? = some slot → slot = none) ∧ ∀ slot ∈ cs.tail, slot ≠ none

/-- The conventional stack of return addresses that the pair (`rs`, `cs`) is equivalent to, innermost last
(10_state.md R27). -/
def State.returnAddresses (s : State) : List Nat := (s.cs ++ [s.rs]).filterMap id

/-- What holds of every state that a run reaches. -/
structure Inv (s : State) : Prop where
  /-- The frame buffer keeps its canonical form and its size (10_state.md R28). -/
  fbFits : s.fb.fits s.cfg
  /-- So does the pending frame (10_state.md R35). -/
  mboxFits : ∀ f, s.mbox = some f → f.fits s.cfg
  /-- And every frame the consumer took (49_graphics.md R226). -/
  takenFits : ∀ f, TakeResult.frame f ∈ s.taken → f.fits s.cfg
  /-- The call state is balanced (10_state.md R27). -/
  callsBalanced : CallsBalanced s.rs s.cs
  /-- Saved addresses lie in the program or just past it (10_state.md R23). -/
  savedInside : ∀ a, some a ∈ s.rs :: s.cs → a ≤ s.cfg.prog.length
  /-- The largest value `pc` ever holds is max(PROG_LEN, 255) (10_state.md R23). -/
  pcInside : s.pc ≤ max s.cfg.prog.length 255
  /-- The channel is open exactly while the engine runs (10_state.md R32). -/
  channelOpen : s.chanOpen = true ↔ s.run = .running
  /-- The throttle's reference is a clock answer not before T0 (60_exceptions.md R257). -/
  throttleAfterT0 : s.cfg.t0 ≤ s.tLast
  /-- No clock answer to come is before the throttle's reference (45_branch.md R176). -/
  throttleBeforeClock : s.tLast ≤ s.clock

/-- The part of the state that a program can observe, directly or through control flow, and the Clock's side of the model
(10_state.md R42). Left out: `fb`, `mbox`, `diag`, `framesSent`, `chanOpen`, `stopReq`, and the model's `sched`,
`recurrence`, `movesDrawn`, `taken`. -/
structure ProgramView where
  cfg : Config
  x : Vector Byte 64
  pc : Nat
  eqFlag : Bool
  zeroFlag : Bool
  ds : List Byte
  cs : List (Option Nat)
  rs : Option Nat
  run : RunState
  tLast : Nat
  ctrl : Byte
  clock : Nat
  clockReads : Nat
  clockScript : List Nat

/-- A state as a program can observe it. -/
def State.programView (s : State) : ProgramView where
  cfg := s.cfg
  x := s.x
  pc := s.pc
  eqFlag := s.eqFlag
  zeroFlag := s.zeroFlag
  ds := s.ds
  cs := s.cs
  rs := s.rs
  run := s.run
  tLast := s.tLast
  ctrl := s.ctrl
  clock := s.clock
  clockReads := s.clockReads
  clockScript := s.clockScript

/-- The Engine is the agent that moves next. -/
def State.engineToMove (s : State) : Prop := s.nextMove = .engine

/-- The Engine executes an instruction in the next step: it is to move, it runs, and no stop request stands
(60_exceptions.md R262, R246). -/
def State.engineReady (s : State) : Prop := s.engineToMove ∧ s.run = .running ∧ s.stopReq = false

/-- The same machine under another schedule. A claim about every run is stated for every `ms` and `r`, because it must
hold for every interleaving (60_exceptions.md R268). -/
def State.underSchedule (s : State) (ms : List Move) (r : Recurrence) : State := { s with sched := ms, recurrence := r }

/-- A run of `n` steps: where it stops, or the state after it. -/
def steps : Nat → State → Result
  | 0, s => .next s
  | n + 1, s =>
    match step s with
    | .next t => steps n t
    | .fault why => .fault why
    | .refused why => .refused why

/-- No fault has ended the run (60_exceptions.md R241). -/
def State.noFault (s : State) : Prop := ∀ why, s.run = .halted why → why.isFault = false

end Sys2Proof.Machine
end

