-- ==== Sys2Proof/Certificates/Slice0/Obligations.lean ====
section
/-! DEFINITION. The statements for the provers. Each names the rule of spec/ it formalises; where it rests on a decision of
the spec or a choice of the model it says which. -/

open Sys2Proof Sys2Proof.Machine

/-- For every well-formed instruction, all 31 and Illegal, with every operand byte at every value, followed by any
bytes: decode reads exactly that instruction and leaves exactly those bytes. (The opcode numbers are the spec's
decision D1, log 1; this statement holds for any numbering without repeats.) Cites 30_encoding.md R90,
30_encoding.md R91, 30_encoding.md R97. -/
def Obligations.DecodeOfEncodeGivesInstruction : Prop :=
  ∀ (i : Instr) (rest : List Byte), i.wf = true → decode (encode i ++ rest) = .ok i rest

/-- Whenever decode answers an instruction and the rest of the bytes, the instruction is well-formed and its encoding
followed by the rest is the original byte sequence: no bit of an encoding is dropped and every word has one meaning.
Cites 30_encoding.md R90, 30_encoding.md R98, 30_encoding.md R99. -/
def Obligations.EncodeOfDecodeGivesBytes : Prop :=
  ∀ (bs : List Byte) (i : Instr) (rest : List Byte), decode bs = .ok i rest → i.wf = true ∧ encode i ++ rest = bs

/-- The opcode bytes 0 to 30 decode to the 31 names in the order the spec lists them, and every byte from 31 on decodes
to Illegal. That the list order is the code order is the spec's own decision D1 (log 1). Cites 30_encoding.md R93,
30_encoding.md R94, 92_eei_decisions.md D1. -/
def Obligations.DecoderMapsEveryOpcodeByte : Prop :=
  (List.range 31).map (fun k => decodeTag (BitVec.ofNat 8 k)) =
      [.halt, .loadI, .add, .print, .nop, .jump, .loadR, .jeq, .comp, .jneq, .color, .inc, .dec, .call, .ret, .input,
        .and, .xor, .or, .sub, .div, .mul, .jz, .jnz, .printB, .andI, .colorI, .draw, .push, .pop, .jumpDt] ∧
    ∀ op : Byte, 31 ≤ op.toNat → decodeTag op = .illegal

/-- 0 operand bytes for Halt, Illegal, Nop, Ret, Draw; 1 for Inc, Dec, the jumps, Call, Push, Pop, Input, Print, PrintB;
2 for LoadI, LoadR, Comp; 3 for the rest; and every decoded instruction, taken or not later, consumed its opcode
byte and exactly that many operand bytes. Cites R95. -/
def Obligations.OperandCountIsFixedByOpcode : Prop :=
  (∀ t ∈ [Tag.halt, .illegal, .nop, .ret, .draw], nops t = 0) ∧
    (∀ t ∈ [Tag.inc, .dec, .jump, .jeq, .jneq, .jz, .jnz, .jumpDt, .call, .push, .pop, .input, .print, .printB],
      nops t = 1) ∧
    (∀ t ∈ [Tag.loadI, .loadR, .comp], nops t = 2) ∧
    (∀ t ∈ [Tag.add, .sub, .mul, .div, .and, .or, .xor, .andI, .color, .colorI], nops t = 3) ∧
    ∀ (op : Byte) (os rest : List Byte), os.length = nops (decodeTag op) →
      ∃ i : Instr, i.tag = decodeTag op ∧ decode (op :: (os ++ rest)) = .ok i rest

/-- decode refuses with noOpcode exactly on the empty byte sequence and with missingOperand exactly when fewer bytes
follow the opcode than its operand count; on everything else it answers an instruction. Cites 30_encoding.md R92,
30_encoding.md R93, 30_encoding.md R99. -/
def Obligations.DecodeRefusesExactlyShortBytes : Prop :=
  ∀ bs : List Byte,
    (decode bs = .refused .noOpcode ↔ bs = []) ∧
      (decode bs = .refused .missingOperand ↔ ∃ op rest, bs = op :: rest ∧ rest.length < nops (decodeTag op)) ∧
      ((∃ i rest, decode bs = .ok i rest) ↔ ∃ op rest, bs = op :: rest ∧ nops (decodeTag op) ≤ rest.length)

/-- 01 05 FA is LoadI r5, #250; 02 00 01 02 is Add r0, r1, r2; 19 04 03 10 is AndI r4, r3, #16; 1A 00 01 1C is ColorI
r0, r1, #0x1C; 1E 17 is JumpDt @23; 0E is Ret; FF is Illegal. (Opcode numbers: decision D1, log 1.) Cites
30_encoding.md R94, 30_encoding.md R97, 95_test_vectors.md. -/
def Obligations.WrittenBytesDecodeAsTheTableSays : Prop :=
  decode [0x01, 0x05, 0xFA] = .ok (.loadI 5 250) [] ∧
    decode [0x02, 0x00, 0x01, 0x02] = .ok (.add 0 1 2) [] ∧
    decode [0x19, 0x04, 0x03, 0x10] = .ok (.andI 4 3 16) [] ∧
    decode [0x1A, 0x00, 0x01, 0x1C] = .ok (.colorI 0 1 0x1C) [] ∧
    decode [0x1E, 0x17] = .ok (.jumpDt 23) [] ∧
    decode [0x0E, 0x04] = .ok .ret [0x04] ∧
    decode [0xFF, 0x00] = .ok (.illegal 0xFF) [0x00]

/-- When the Engine is to move, runs and no stop request stands, and the program's bytes from pc on decode to i, then
the step is exec of i at the state whose pc is past the instruction's last byte and whose schedule has lost the
Engine's move, and nothing else changed. Cites 30_encoding.md R92, 60_exceptions.md R262, 10_state.md R22. -/
def Obligations.StepRunsDecodedInstruction : Prop :=
  ∀ (s : State) (i : Instr) (rest : List Byte), s.engineReady → decode (s.cfg.prog.drop s.pc) = .ok i rest →
    step s = exec i { s.advance with pc := s.pc + 1 + nops i.tag }

/-- When a ready Engine finds pc at or past the end of the program, the step halts with ProgramBoundsError and closes
the channel; pc and all else stay. That pc has no width and never wraps is the spec's decision D2 (log 2). Cites
10_state.md R22, 30_encoding.md R92, 60_exceptions.md R244, 92_eei_decisions.md D2. -/
def Obligations.FetchPastProgramEndRaises : Prop :=
  ∀ s : State, s.engineReady → s.cfg.prog.length ≤ s.pc →
    step s = .next { s.advance with run := .halted .programBoundsError, chanOpen := false }

/-- When a ready Engine's opcode byte exists but fewer operand bytes follow than the opcode has, the step halts with
ProgramBoundsError, pc is PROG_LEN and nothing else but the channel changes, whatever the register operands that
were there. (The order of the checks is the spec's decision D6, log 5.) Cites 30_encoding.md R92, 60_exceptions.md
R244, 60_exceptions.md R245. -/
def Obligations.MissingOperandRaisesAtProgramEnd : Prop :=
  ∀ (s : State) (op : Byte) (rest : List Byte), s.engineReady → s.cfg.prog.drop s.pc = op :: rest →
    rest.length < nops (decodeTag op) →
    step s = .next { s.advance with
      pc := s.cfg.prog.length, run := .halted .programBoundsError, chanOpen := false }

/-- For every construction, every program loaded and every schedule that begins with the Engine: with an empty program
the first step raises ProgramBoundsError; otherwise the first step executes the instruction that the program's bytes
from offset 0 decode to. Only the place in the schedule moves beside it (the schedule is the model's own form, log
18). Cites R291. -/
def Obligations.RunStartsAtOffsetZero : Prop :=
  ∀ (width height period t0 : Nat) (prog : List Byte) (ms : List Move) (r : Recurrence) (s : State),
    s = ((State.construct width height period t0).load prog).underSchedule ms r → s.engineToMove →
    (prog = [] → step s = .next { s.advance with run := .halted .programBoundsError, chanOpen := false }) ∧
    ∀ (i : Instr) (rest : List Byte), decode prog = .ok i rest → step s = exec i { s.advance with pc := 1 + nops i.tag }

/-- When the Engine is to move and runs with the stop request set, its step halts with Stopped and closes the channel;
pc stays and nothing is fetched, whatever stands at pc. The point of the check and the reason are the spec's
decision D16 (log 15). Cites 60_exceptions.md R246, 92_eei_decisions.md D16. -/
def Obligations.StopRequestEndsRunBeforeFetch : Prop :=
  ∀ s : State, s.engineToMove → s.run = .running → s.stopReq = true →
    step s = .next { s.advance with run := .halted .stopped, chanOpen := false }

/-- The Engine's step is enabled exactly while it runs: a step faults with runEnded and the run's reason when the Engine
is to move and is halted, and in every other state it answers a next state; it never refuses. That the disabled step
is the fault runEnded is the model's form (log 27). Cites 60_exceptions.md R262, 60_exceptions.md R268,
60_exceptions.md R269. -/
def Obligations.StepStopsExactlyWhenRunEnded : Prop :=
  ∀ s : State,
    (∀ why, s.engineToMove → s.run = .halted why → step s = .fault (.runEnded why)) ∧
      (¬ s.engineToMove ∨ s.run = .running → ∃ t, step s = .next t)

/-- Every step from a halted state keeps the reason and every piece of Engine-owned state; only the latch, the mailbox,
the stop request, the schedule and the consumer's log can change. That an ended engine never runs again is the
spec's decision D20 (log 19). Cites 10_state.md R29, 60_exceptions.md R248, 60_exceptions.md R269,
92_eei_decisions.md D20. -/
def Obligations.HaltedIsAbsorbing : Prop :=
  ∀ (s t : State) (why : Reason), s.run = .halted why → step s = .next t →
    t.run = .halted why ∧
      t = { s with
        ctrl := t.ctrl, mbox := t.mbox, stopReq := t.stopReq, taken := t.taken
        sched := t.sched, movesDrawn := t.movesDrawn }

/-- Halt is the byte 00 and answers the state with run = Halted(Halt) and the channel closed, everything else kept:
registers, flags, stacks, frame buffer, mailbox, throttle and pc. The opcode number is the one the cited rule
prints; that the list order gives it is the spec's decision D1 (log 1). Cites R120. -/
def Obligations.HaltEndsRunNormally : Prop :=
  ∀ s : State, encode .halt = [0x00] ∧
    exec .halt s = .next { s with run := .halted .halt, chanOpen := false }

/-- An opcode byte from 31 on, whatever follows it, decodes to an Illegal of one byte, and executing it halts with
DecodeError, a reason other than Halt, and closes the channel; nothing else changes. Cites R121. -/
def Obligations.IllegalRaisesDecodeError : Prop :=
  ∀ (s : State) (op : Byte) (rest : List Byte),
    (31 ≤ op.toNat → decode (op :: rest) = .ok (.illegal op) rest) ∧
      exec (.illegal op) s = .next { s with run := .halted .decodeError, chanOpen := false }

/-- Nop is the byte 04 and its execute part answers the state it was given. The opcode number is the one the cited rule
prints; that the list order gives it is the spec's decision D1 (log 1). Cites R122. -/
def Obligations.NopChangesNothing : Prop :=
  ∀ s : State, encode .nop = [0x04] ∧ exec .nop s = .next s

/-- LoadI dst, imm is the bytes 01 dst imm; with dst below 64 it answers the state with cell dst equal to imm and all
else kept, the flags too; with dst 64 or more it halts with RegisterRangeError and the registers are unchanged. The
opcode number is the one the cited rule prints; that the list order gives it is the spec's decision D1 (log 1).
Cites R130. -/
def Obligations.LoadIWritesImmediate : Prop :=
  ∀ (s : State) (dst imm : Byte), encode (.loadI dst imm) = [0x01, dst, imm] ∧
    (∀ hd : dst.toNat < 64, exec (.loadI dst imm) s = .next { s with x := s.x.set dst.toNat imm hd }) ∧
    (64 ≤ dst.toNat → exec (.loadI dst imm) s = .next { s with run := .halted .registerRangeError, chanOpen := false })

/-- LoadR dst, src is the bytes 06 dst src; with both below 64 cell dst takes the value of cell src; with either 64 or
more it halts with RegisterRangeError and the registers are unchanged. The opcode number is the one the cited rule
prints; that the list order gives it is the spec's decision D1 (log 1). Cites R131. -/
def Obligations.LoadRCopiesRegister : Prop :=
  ∀ (s : State) (dst src : Byte), encode (.loadR dst src) = [0x06, dst, src] ∧
    (∀ (hd : dst.toNat < 64) (hs : src.toNat < 64),
      exec (.loadR dst src) s = .next { s with x := s.x.set dst.toNat s.x[src.toNat] hd }) ∧
    (64 ≤ dst.toNat ∨ 64 ≤ src.toNat → exec (.loadR dst src) s = .next { s with run := .halted .registerRangeError, chanOpen := false })

/-- With all three operands below 64, Add, Sub and Mul write to dst the residue modulo 256 of the sum, difference (a
minus b) and product of the cells read before the write, and change nothing else, no flag; with an operand of 64 or
more they halt with RegisterRangeError. Their opcodes are 02, 13 and 15 hexadecimal. The opcode number is the one
the cited rule prints; that the list order gives it is the spec's decision D1 (log 1). Cites R140, R141, R142. -/
def Obligations.AddSubMulWrapModulo256 : Prop :=
  ∀ (s : State) (dst a b : Byte),
    encode (.add dst a b) = [0x02, dst, a, b] ∧ encode (.sub dst a b) = [0x13, dst, a, b] ∧
    encode (.mul dst a b) = [0x15, dst, a, b] ∧
    (∀ (hd : dst.toNat < 64) (ha : a.toNat < 64) (hb : b.toNat < 64),
      exec (.add dst a b) s = .next { s with
        x := s.x.set dst.toNat (BitVec.ofNat 8 ((s.x[a.toNat].toNat + s.x[b.toNat].toNat) % 256)) hd } ∧
      exec (.sub dst a b) s = .next { s with
        x := s.x.set dst.toNat (BitVec.ofInt 8 (((s.x[a.toNat].toNat : Int) - s.x[b.toNat].toNat) % 256)) hd } ∧
      exec (.mul dst a b) s = .next { s with
        x := s.x.set dst.toNat (BitVec.ofNat 8 ((s.x[a.toNat].toNat * s.x[b.toNat].toNat) % 256)) hd }) ∧
    (64 ≤ dst.toNat ∨ 64 ≤ a.toNat ∨ 64 ≤ b.toNat →
      exec (.add dst a b) s = .next { s with run := .halted .registerRangeError, chanOpen := false } ∧
      exec (.sub dst a b) s = .next { s with run := .halted .registerRangeError, chanOpen := false } ∧
      exec (.mul dst a b) s = .next { s with run := .halted .registerRangeError, chanOpen := false })

/-- With operands below 64 and a divisor cell other than 0, Div writes a value whose number is the floor of the quotient
of the cells read as unsigned numbers, and changes nothing else; with a divisor cell of 0 it halts with
ArithmeticError and no register changes; with an operand of 64 or more it halts with RegisterRangeError, whatever
the divisor. That the bytes are unsigned and the quotient truncated is the spec's decision D5 (log 4). That a
register operand of 64 or more is reported before a zero divisor is decision D6 (R244; log 5). The opcode number is
the one the cited rule prints; that the list order gives it is the spec's decision D1 (log 1). Cites
42_arithmetic.md R143, 92_eei_decisions.md D5, 60_exceptions.md R244, 92_eei_decisions.md D6, 92_eei_decisions.md
D1. -/
def Obligations.DivFloorsAndFaultsOnZero : Prop :=
  ∀ (s : State) (dst a b : Byte), encode (.div dst a b) = [0x14, dst, a, b] ∧
    (∀ (hd : dst.toNat < 64) (ha : a.toNat < 64) (hb : b.toNat < 64),
      (s.x[b.toNat] ≠ 0 → ∃ q : Byte,
        q.toNat * s.x[b.toNat].toNat ≤ s.x[a.toNat].toNat ∧
        s.x[a.toNat].toNat < (q.toNat + 1) * s.x[b.toNat].toNat ∧
        exec (.div dst a b) s = .next { s with x := s.x.set dst.toNat q hd }) ∧
      (s.x[b.toNat] = 0 →
        exec (.div dst a b) s = .next { s with run := .halted .arithmeticError, chanOpen := false })) ∧
    (64 ≤ dst.toNat ∨ 64 ≤ a.toNat ∨ 64 ≤ b.toNat → exec (.div dst a b) s = .next { s with run := .halted .registerRangeError, chanOpen := false })

/-- With the operand below 64, Inc and Dec write the cell's number plus or minus 1 modulo 256 back to the cell and
change nothing else, no flag; otherwise they halt with RegisterRangeError. The opcode number is the one the cited
rule prints; that the list order gives it is the spec's decision D1 (log 1). Cites R160, R161. -/
def Obligations.IncDecWrapModulo256 : Prop :=
  ∀ (s : State) (r : Byte), encode (.inc r) = [0x0B, r] ∧ encode (.dec r) = [0x0C, r] ∧
    (∀ hr : r.toNat < 64,
      exec (.inc r) s = .next { s with
        x := s.x.set r.toNat (BitVec.ofNat 8 ((s.x[r.toNat].toNat + 1) % 256)) hr } ∧
      exec (.dec r) s = .next { s with
        x := s.x.set r.toNat (BitVec.ofInt 8 (((s.x[r.toNat].toNat : Int) - 1) % 256)) hr }) ∧
    (64 ≤ r.toNat → exec (.inc r) s = .next { s with run := .halted .registerRangeError, chanOpen := false } ∧
      exec (.dec r) s = .next { s with run := .halted .registerRangeError, chanOpen := false })

/-- With all operands below 64, And, Or and Xor write a byte whose every bit is the and, or, exclusive or of the
sources' bits, set zf to whether that byte is 0, and change nothing else, eq included; with an operand of 64 or more
they halt with RegisterRangeError and write neither a register nor zf. The opcode number is the one the cited rule
prints; that the list order gives it is the spec's decision D1 (log 1). Cites R150, R151, R152. -/
def Obligations.BitwiseWriteResultAndZeroFlag : Prop :=
  ∀ (s : State) (dst a b : Byte),
    encode (.and dst a b) = [0x10, dst, a, b] ∧ encode (.xor dst a b) = [0x11, dst, a, b] ∧
    encode (.or dst a b) = [0x12, dst, a, b] ∧
    (∀ (hd : dst.toNat < 64) (ha : a.toNat < 64) (hb : b.toNat < 64),
      (∃ v : Byte, (∀ k, v.getLsbD k = (s.x[a.toNat].getLsbD k && s.x[b.toNat].getLsbD k)) ∧
        exec (.and dst a b) s = .next { s with x := s.x.set dst.toNat v hd, zeroFlag := v == 0 }) ∧
      (∃ v : Byte, (∀ k, v.getLsbD k = (s.x[a.toNat].getLsbD k || s.x[b.toNat].getLsbD k)) ∧
        exec (.or dst a b) s = .next { s with x := s.x.set dst.toNat v hd, zeroFlag := v == 0 }) ∧
      (∃ v : Byte, (∀ k, v.getLsbD k = (s.x[a.toNat].getLsbD k ^^ s.x[b.toNat].getLsbD k)) ∧
        exec (.xor dst a b) s = .next { s with x := s.x.set dst.toNat v hd, zeroFlag := v == 0 })) ∧
    (64 ≤ dst.toNat ∨ 64 ≤ a.toNat ∨ 64 ≤ b.toNat →
      exec (.and dst a b) s = .next { s with run := .halted .registerRangeError, chanOpen := false } ∧
      exec (.or dst a b) s = .next { s with run := .halted .registerRangeError, chanOpen := false } ∧
      exec (.xor dst a b) s = .next { s with run := .halted .registerRangeError, chanOpen := false })

/-- With dst and src below 64 and any literal, AndI writes a byte whose every bit is the and of the source's and the
literal's bits, sets zf to whether it is 0, and changes nothing else; with dst or src 64 or more it halts with
RegisterRangeError. The opcode number is the one the cited rule prints; that the list order gives it is the spec's
decision D1 (log 1). Cites R153. -/
def Obligations.AndIMasksWithLiteral : Prop :=
  ∀ (s : State) (dst src imm : Byte), encode (.andI dst src imm) = [0x19, dst, src, imm] ∧
    (∀ (hd : dst.toNat < 64) (hs : src.toNat < 64),
      ∃ v : Byte, (∀ k, v.getLsbD k = (s.x[src.toNat].getLsbD k && imm.getLsbD k)) ∧
        exec (.andI dst src imm) s = .next { s with x := s.x.set dst.toNat v hd, zeroFlag := v == 0 }) ∧
    (64 ≤ dst.toNat ∨ 64 ≤ src.toNat → exec (.andI dst src imm) s = .next { s with run := .halted .registerRangeError, chanOpen := false })

/-- With both operands below 64, Comp sets eq to whether the cells hold equal bytes and changes nothing else, zf and the
registers included; with an operand of 64 or more it halts with RegisterRangeError and eq is unchanged. The opcode
number is the one the cited rule prints; that the list order gives it is the spec's decision D1 (log 1). Cites R154. -/
def Obligations.CompSetsEqualFlagOnly : Prop :=
  ∀ (s : State) (a b : Byte), encode (.comp a b) = [0x08, a, b] ∧
    (∀ (ha : a.toNat < 64) (hb : b.toNat < 64),
      exec (.comp a b) s = .next { s with eqFlag := s.x[a.toNat].toNat == s.x[b.toNat].toNat }) ∧
    (64 ≤ a.toNat ∨ 64 ≤ b.toNat → exec (.comp a b) s = .next { s with run := .halted .registerRangeError, chanOpen := false })

/-- Jump addr is the bytes 05 addr and answers the state with pc equal to addr, any of 0 to 255, all else kept. The
opcode number is the one the cited rule prints; that the list order gives it is the spec's decision D1 (log 1).
Cites R170. -/
def Obligations.JumpSetsInstructionPointer : Prop :=
  ∀ (s : State) (addr : Byte), encode (.jump addr) = [0x05, addr] ∧
    exec (.jump addr) s = .next { s with pc := addr.toNat }

/-- Jeq is taken when eq is true, Jneq when it is false, Jz when zf is true, Jnz when it is false; taken, pc is the
target byte; not taken, pc stays past the operand; nothing else changes. The opcode number is the one the cited rule
prints; that the list order gives it is the spec's decision D1 (log 1). Cites R171, R172, R173, R174. -/
def Obligations.ConditionalJumpsFollowTheirFlag : Prop :=
  ∀ (s : State) (addr : Byte),
    (encode (.jeq addr) = [0x07, addr] ∧ encode (.jneq addr) = [0x09, addr] ∧
      encode (.jz addr) = [0x16, addr] ∧ encode (.jnz addr) = [0x17, addr]) ∧
    (s.eqFlag = true →
      exec (.jeq addr) s = .next { s with pc := addr.toNat } ∧ exec (.jneq addr) s = .next s) ∧
    (s.eqFlag = false →
      exec (.jeq addr) s = .next s ∧ exec (.jneq addr) s = .next { s with pc := addr.toNat }) ∧
    (s.zeroFlag = true →
      exec (.jz addr) s = .next { s with pc := addr.toNat } ∧ exec (.jnz addr) s = .next s) ∧
    (s.zeroFlag = false →
      exec (.jz addr) s = .next s ∧ exec (.jnz addr) s = .next { s with pc := addr.toNat })

/-- There is one clock reading t, not before any earlier answer, such that: when t minus t_last is less than PERIOD,
JumpDt sets pc to the target and keeps t_last; otherwise pc stays and t_last becomes t; nothing else changes but the
model's own record of the Clock, which takes t as its latest answer. The reading is the mock clock's or a free value
(decision D9, log 8); PERIOD is a parameter (D10, log 9). That the time is measured from the last reset of the
reference, and that a taken jump keeps the reference, is the spec's resolution C3 (log 23). The opcode number is the
one the cited rule prints; that the list order gives it is the spec's decision D1 (log 1). Cites 45_branch.md R176,
45_branch.md R177, 92_eei_decisions.md D9, 92_eei_decisions.md D10, 90_conflicts.md C3, 92_eei_decisions.md D1. -/
def Obligations.JumpDtThrottlesByElapsedTime : Prop :=
  ∀ (s : State) (addr : Byte), encode (.jumpDt addr) = [0x1E, addr] ∧
    ∃ t : Nat, s.clock ≤ t ∧ (∀ d ds, s.clockScript = d :: ds → t = s.clock + d) ∧
      (t - s.tLast < s.cfg.period →
        exec (.jumpDt addr) s = .next { s with
          pc := addr.toNat, clock := t, clockReads := s.clockReads + 1, clockScript := s.clockScript.tail }) ∧
      (s.cfg.period ≤ t - s.tLast →
        exec (.jumpDt addr) s = .next { s with
          tLast := t, clock := t, clockReads := s.clockReads + 1, clockScript := s.clockScript.tail })

/-- Call addr is the bytes 0D addr and answers the state whose call stack has the old slot on top, whose slot holds the
pc after the operand fetch, and whose pc is the target; nothing else changes, however deep the stack. That no depth
of the stack makes it fail is the spec's decision D11 (log 10); that the saved pc is a number without a width and
never wraps is decision D2 (log 2). The opcode number is the one the cited rule prints; that the list order gives it
is the spec's decision D1 (log 1). Cites 46_call_return.md R190, 92_eei_decisions.md D11, 92_eei_decisions.md D2,
92_eei_decisions.md D1. -/
def Obligations.CallSavesReturnSlot : Prop :=
  ∀ (s : State) (addr : Byte), encode (.call addr) = [0x0D, addr] ∧
    exec (.call addr) s = .next { s with cs := s.cs ++ [s.rs], rs := some s.pc, pc := addr.toNat }

/-- With an empty slot Ret halts with CallStackError, pc and both parts of the call state kept. With address a in the
slot and a call stack whose top is slot', pc becomes a, the slot slot', the stack loses its top, and nothing else
changes. With a full slot and an empty stack the slot becomes empty: the spec's decision D17 for a state no run
reaches (log 16). The opcode number is the one the cited rule prints; that the list order gives it is the spec's
decision D1 (log 1). Cites 46_call_return.md R191, 46_call_return.md R192, 92_eei_decisions.md D17,
92_eei_decisions.md D1. -/
def Obligations.RetResumesAtReturnSlot : Prop :=
  ∀ s : State, encode .ret = [0x0E] ∧
    (s.rs = none → exec .ret s = .next { s with run := .halted .callStackError, chanOpen := false }) ∧
    (∀ (a : Nat) (below : List (Option Nat)) (top : Option Nat), s.rs = some a → s.cs = below ++ [top] →
      exec .ret s = .next { s with pc := a, rs := top, cs := below }) ∧
    (∀ a : Nat, s.rs = some a → s.cs = [] → exec .ret s = .next { s with pc := a, rs := none })

/-- With the operand below 64, Push appends the cell's byte to the data stack, whatever its depth, and changes nothing
else, the cell included; otherwise it halts with RegisterRangeError. That there is no greatest depth, and so no
overflow, is the spec's decision D11 (log 10). The opcode number is the one the cited rule prints; that the list
order gives it is the spec's decision D1 (log 1). Cites 47_stack.md R200, 92_eei_decisions.md D11,
92_eei_decisions.md D1. -/
def Obligations.PushAppendsToDataStack : Prop :=
  ∀ (s : State) (r : Byte), encode (.push r) = [0x1C, r] ∧
    (∀ hr : r.toNat < 64, exec (.push r) s = .next { s with ds := s.ds ++ [s.x[r.toNat]] }) ∧
    (64 ≤ r.toNat → exec (.push r) s = .next { s with run := .halted .registerRangeError, chanOpen := false })

/-- With the operand below 64, Pop from a stack whose top is v writes v to the cell and removes it; from the empty stack
it writes 0 and the stack stays empty; nothing else changes, no flag. With the operand 64 or more it halts with
RegisterRangeError and removes nothing. The opcode number is the one the cited rule prints; that the list order
gives it is the spec's decision D1 (log 1). Cites R201. -/
def Obligations.PopTakesTopOrZero : Prop :=
  ∀ (s : State) (r : Byte), encode (.pop r) = [0x1D, r] ∧
    (∀ hr : r.toNat < 64,
      (∀ (below : List Byte) (v : Byte), s.ds = below ++ [v] →
        exec (.pop r) s = .next { s with x := s.x.set r.toNat v hr, ds := below }) ∧
      (s.ds = [] → exec (.pop r) s = .next { s with x := s.x.set r.toNat 0 hr })) ∧
    (64 ≤ r.toNat → exec (.pop r) s = .next { s with run := .halted .registerRangeError, chanOpen := false })

/-- With the operand below 64, Input writes the latch's current byte to the cell and changes nothing else, the latch and
the flags included; otherwise it halts with RegisterRangeError. The opcode number is the one the cited rule prints;
that the list order gives it is the spec's decision D1 (log 1). Cites R210. -/
def Obligations.InputReadsControllerLatch : Prop :=
  ∀ (s : State) (r : Byte), encode (.input r) = [0x0F, r] ∧
    (∀ hr : r.toNat < 64, exec (.input r) s = .next { s with x := s.x.set r.toNat s.ctrl hr }) ∧
    (64 ≤ r.toNat → exec (.input r) s = .next { s with run := .halted .registerRangeError, chanOpen := false })

/-- With the operand below 64, Print appends (Dec, value) and PrintB (Bin, value) at the end of the diagnostic output
and nothing else changes; otherwise they halt with RegisterRangeError and emit nothing. That what is emitted is the
pair of the radix and the value, kept in a log, is the spec's decision D13 (log 12). The opcode number is the one
the cited rule prints; that the list order gives it is the spec's decision D1 (log 1). Cites 48_io.md R211, 48_io.md
R212, 92_eei_decisions.md D13, 10_state.md R31, 92_eei_decisions.md D1. -/
def Obligations.PrintsEmitRadixAndValue : Prop :=
  ∀ (s : State) (r : Byte), encode (.print r) = [0x03, r] ∧ encode (.printB r) = [0x18, r] ∧
    (∀ hr : r.toNat < 64,
      exec (.print r) s = .next { s with diag := s.diag ++ [(.dec, s.x[r.toNat])] } ∧
      exec (.printB r) s = .next { s with diag := s.diag ++ [(.bin, s.x[r.toNat])] }) ∧
    (64 ≤ r.toNat → exec (.print r) s = .next { s with run := .halted .registerRangeError, chanOpen := false } ∧
      exec (.printB r) s = .next { s with run := .halted .registerRangeError, chanOpen := false })

/-- For every packed byte, the red byte's number is 36 times bits 7:5, the green byte's 36 times bits 4:2, the blue
byte's 85 times bits 1:0, and alpha is 255; and 0xE3, 0x1C, 0 and 255 expand as the spec's examples say. That green
is bits 4:2 and not the source's printed shift by 3 is the spec's own resolution C1 (log 21). Cites 49_graphics.md
R220, 90_conflicts.md C1. -/
def Obligations.ExpandColourByFields : Prop :=
  (∀ v : Byte,
    (expand v).red.toNat = 36 * (v.toNat / 32 % 8) ∧ (expand v).green.toNat = 36 * (v.toNat / 4 % 8) ∧
      (expand v).blue.toNat = 85 * (v.toNat % 4) ∧ (expand v).alpha.toNat = 255) ∧
    expand 0xE3 = ⟨252, 0, 255, 255⟩ ∧ expand 0x1C = ⟨0, 252, 0, 255⟩ ∧ expand 0 = ⟨0, 0, 0, 255⟩ ∧
    expand 0xFF = ⟨252, 252, 255, 255⟩

/-- With all operands below 64 and both coordinates inside the frame, Color writes the expanded colour's red, green,
blue and alpha 255 at the pixel's offset pixelOffset WIDTH x y = (x + y*WIDTH)*4 and the three after it, and every
other byte and every other part of the state is kept. With a coordinate outside it halts with FrameBoundsError and
the buffer is unchanged; with an operand of 64 or more it halts with RegisterRangeError. The buffer is assumed in
its canonical form, which every step keeps (StepKeepsInvariant). That each coordinate is checked, not the offset, is
the spec's resolution C2 (log 22); that green is bits 4:2 is resolution C1 (log 21); that the register operands are
checked before the coordinates is decision D6 (log 5). The opcode number is the one the cited rule prints; that the
list order gives it is the spec's decision D1 (log 1). Cites 49_graphics.md R221, 49_graphics.md R222,
90_conflicts.md C1, 90_conflicts.md C2, 92_eei_decisions.md D6, 92_eei_decisions.md D1. -/
def Obligations.ColorWritesOnePixel : Prop :=
  ∀ (s : State) (x y c : Byte), encode (.color x y c) = [0x0A, x, y, c] ∧
    (∀ (hx : x.toNat < 64) (hy : y.toNat < 64) (hc : c.toNat < 64),
      (s.x[x.toNat].toNat < s.cfg.width → s.x[y.toNat].toNat < s.cfg.height → s.fb.wf = true →
        ∃ t, exec (.color x y c) s = .next t ∧ t = { s with fb := t.fb } ∧ t.fb.wf = true ∧
          ∀ k, t.fb.read k =
            if k = pixelOffset s.cfg.width s.x[x.toNat].toNat s.x[y.toNat].toNat then (expand s.x[c.toNat]).red
            else if k = pixelOffset s.cfg.width s.x[x.toNat].toNat s.x[y.toNat].toNat + 1 then (expand s.x[c.toNat]).green
            else if k = pixelOffset s.cfg.width s.x[x.toNat].toNat s.x[y.toNat].toNat + 2 then (expand s.x[c.toNat]).blue
            else if k = pixelOffset s.cfg.width s.x[x.toNat].toNat s.x[y.toNat].toNat + 3 then (expand s.x[c.toNat]).alpha
            else s.fb.read k) ∧
      (s.cfg.width ≤ s.x[x.toNat].toNat ∨ s.cfg.height ≤ s.x[y.toNat].toNat →
        exec (.color x y c) s = .next { s with run := .halted .frameBoundsError, chanOpen := false })) ∧
    (64 ≤ x.toNat ∨ 64 ≤ y.toNat ∨ 64 ≤ c.toNat → exec (.color x y c) s = .next { s with run := .halted .registerRangeError, chanOpen := false })

/-- As Color, with the packed colour given by the literal: with x and y below 64 and the coordinates inside the frame,
the four bytes of the pixel take the expanded literal and all else is kept; a coordinate outside the frame halts
with FrameBoundsError; a register operand of 64 or more halts with RegisterRangeError; the literal is never checked.
That each coordinate is checked, not the offset, is the spec's resolution C2 (log 22); that green is bits 4:2 is
resolution C1 (log 21); that the register operands are checked before the coordinates is decision D6 (log 5). The
opcode number is the one the cited rule prints; that the list order gives it is the spec's decision D1 (log 1).
Cites 49_graphics.md R221, 49_graphics.md R223, 90_conflicts.md C1, 90_conflicts.md C2, 92_eei_decisions.md D6,
92_eei_decisions.md D1. -/
def Obligations.ColorIWritesOnePixel : Prop :=
  ∀ (s : State) (x y imm : Byte), encode (.colorI x y imm) = [0x1A, x, y, imm] ∧
    (∀ (hx : x.toNat < 64) (hy : y.toNat < 64),
      (s.x[x.toNat].toNat < s.cfg.width → s.x[y.toNat].toNat < s.cfg.height → s.fb.wf = true →
        ∃ t, exec (.colorI x y imm) s = .next t ∧ t = { s with fb := t.fb } ∧ t.fb.wf = true ∧
          ∀ k, t.fb.read k =
            if k = pixelOffset s.cfg.width s.x[x.toNat].toNat s.x[y.toNat].toNat then (expand imm).red
            else if k = pixelOffset s.cfg.width s.x[x.toNat].toNat s.x[y.toNat].toNat + 1 then (expand imm).green
            else if k = pixelOffset s.cfg.width s.x[x.toNat].toNat s.x[y.toNat].toNat + 2 then (expand imm).blue
            else if k = pixelOffset s.cfg.width s.x[x.toNat].toNat s.x[y.toNat].toNat + 3 then (expand imm).alpha
            else s.fb.read k) ∧
      (s.cfg.width ≤ s.x[x.toNat].toNat ∨ s.cfg.height ≤ s.x[y.toNat].toNat →
        exec (.colorI x y imm) s = .next { s with run := .halted .frameBoundsError, chanOpen := false })) ∧
    (64 ≤ x.toNat ∨ 64 ≤ y.toNat → exec (.colorI x y imm) s = .next { s with run := .halted .registerRangeError, chanOpen := false })

/-- Draw is the byte 1B; it answers the state whose mailbox holds the frame buffer's contents, an undelivered frame or
none before, with one more frame sent; the buffer and all else are kept, and it never faults. Capacity one and
latest-wins are the source's, the rest of the channel is the spec's decision D15 (log 14). The opcode number is the
one the cited rule prints; that the list order gives it is the spec's decision D1 (log 1). Cites 49_graphics.md
R225, 49_graphics.md R226, 92_eei_decisions.md D15, 92_eei_decisions.md D1. -/
def Obligations.DrawSendsLatestFrame : Prop :=
  ∀ s : State, encode .draw = [0x1B] ∧
    exec .draw s = .next { s with mbox := some s.fb, framesSent := s.framesSent + 1 }

/-- In every state, halted ones too, the Input Producer's press(k) ors 1 shifted left by k into the latch and release(k)
clears that bit; nothing else changes but the schedule, which loses the move. Cites R263, R264. -/
def Obligations.PressAndReleaseSetAndClearLatchBit : Prop :=
  ∀ (s : State) (k : Fin 8),
    (s.nextMove = .press k →
      step s = .next { s.advance with ctrl := s.ctrl ||| ((1 : Byte) <<< k.val) }) ∧
    (s.nextMove = .release k →
      step s = .next { s.advance with ctrl := s.ctrl &&& ~~~((1 : Byte) <<< k.val) })

/-- In every state the consumer's take empties the mailbox and answers the frame that was pending, also after
termination; with no frame it answers Empty while the channel is open and Closed afterwards; nothing else changes.
The channel's details are the spec's decision D15 (log 14); the answer is recorded in the model's own log (log 24).
Cites 60_exceptions.md R259, 60_exceptions.md R265, 92_eei_decisions.md D15. -/
def Obligations.TakeDrainsMailboxOrReportsClosure : Prop :=
  ∀ s : State, s.nextMove = .take →
    (∀ f, s.mbox = some f →
      step s = .next { s.advance with mbox := none, taken := s.taken ++ [.frame f] }) ∧
    (s.mbox = none → s.chanOpen = true → step s = .next { s.advance with taken := s.taken ++ [.empty] }) ∧
    (s.mbox = none → s.chanOpen = false → step s = .next { s.advance with taken := s.taken ++ [.closed] })

/-- In every state the Host's stop sets the stop request and changes nothing else but the schedule; and a stop request
that stands is still standing after any step. The mechanism's details are the spec's decision D16 (log 15). Cites
60_exceptions.md R266, 92_eei_decisions.md D16. -/
def Obligations.HostStopSetsRequest : Prop :=
  (∀ s : State, s.nextMove = .stop → step s = .next { s.advance with stopReq := true }) ∧
    ∀ s t : State, s.stopReq = true → step s = .next t → t.stopReq = true

/-- The host port construct refuses a frequency of 0 and otherwise answers the reset state with the given dimensions and
T0, whose PERIOD is the free function of the frequency. The spec's decision D10 (log 9). That a frequency is a
natural number of hertz is the model's own choice (log 29). Cites 10_state.md R39, 92_eei_decisions.md D10. -/
def Obligations.ConstructRefusesZeroFrequency : Prop :=
  ∀ width height f t0 : Nat,
    (f = 0 → constructAtFrequency width height f t0 = .refused .zeroFrequency) ∧
      (f ≠ 0 → constructAtFrequency width height f t0 =
        .next (State.construct width height (Config.periodTicks f) t0))

/-- The state after reset, and every constructed engine with any program loaded, meets the invariant of
StepKeepsInvariant. The reset values of the throttle and the channel are the spec's decisions D9 (log 8) and D15
(log 14). Cites 10_state.md R27, 10_state.md R32, 10_state.md R40, 92_eei_decisions.md D9, 92_eei_decisions.md D15. -/
def Obligations.InvariantHoldsAtReset : Prop :=
  Inv State.reset ∧
    ∀ (width height period t0 : Nat) (prog : List Byte), Inv ((State.construct width height period t0).load prog)

/-- From every state that meets Inv, every step that answers a next state answers one that meets Inv: frame buffer,
pending and taken frames stay canonical and inside FB_SIZE; the return slot and call stack stay balanced with saved
addresses at most PROG_LEN; pc stays at most max(PROG_LEN, 255); the channel is open exactly while the engine runs;
T0 <= t_last <= the latest clock answer. The bound on pc rests on decision D2 (log 2), the clock's order on D9 (log
8), the channel's closing on D15 (log 14), the buffer's bound on the coordinate check C2 (log 22); the canonical
form is the model's own (log 25). Cites 10_state.md R23, 10_state.md R27, 10_state.md R28, 10_state.md R32,
60_exceptions.md R257, 92_eei_decisions.md D2, 92_eei_decisions.md D9, 92_eei_decisions.md D15, 90_conflicts.md C2. -/
def Obligations.StepKeepsInvariant : Prop :=
  ∀ s t : State, Inv s → step s = .next t → Inv t

/-- On every balanced call state, each instruction keeps it balanced and acts on the list of return addresses as a
conventional stack: Call pushes the pc after it; Ret with address a on top jumps to a and pops it, and on the empty
stack halts with CallStackError; every other instruction leaves the list as it was. That no depth makes a Call fail
is the spec's decision D11 (log 10); that addresses have no width is decision D2 (log 2). Cites 10_state.md R26,
10_state.md R27, 46_call_return.md R193, 92_eei_decisions.md D11, 92_eei_decisions.md D2. -/
def Obligations.CallStateRefinesReturnAddressStack : Prop :=
  ∀ (i : Instr) (s t : State), CallsBalanced s.rs s.cs → exec i s = .next t →
    CallsBalanced t.rs t.cs ∧
      (i.tag = .call → t.returnAddresses = s.returnAddresses ++ [s.pc]) ∧
      (i.tag = .ret → ∀ below a, s.returnAddresses = below ++ [a] → t.pc = a ∧ t.returnAddresses = below) ∧
      (i.tag = .ret → s.returnAddresses = [] →
        t = { s with run := .halted .callStackError, chanOpen := false }) ∧
      (i.tag ≠ .call → i.tag ≠ .ret → t.returnAddresses = s.returnAddresses)

/-- In every state, if the callee leaves the slot and the call stack as the Call left them, whatever else it changed,
then its Ret sets pc to the address after the Call and the slot and the stack are what they were before the Call.
That no depth makes the Call fail is the spec's decision D11 (log 10); that addresses have no width is decision D2
(log 2). Cites 46_call_return.md R190, 46_call_return.md R191, 46_call_return.md R193, 92_eei_decisions.md D11,
92_eei_decisions.md D2. -/
def Obligations.RetUndoesCall : Prop :=
  ∀ (s t u : State) (addr : Byte), exec (.call addr) s = .next t → u.rs = t.rs → u.cs = t.cs →
    exec .ret u = .next { u with pc := s.pc, rs := s.rs, cs := s.cs }

/-- An instruction other than Comp keeps eq, one other than And, Or, Xor, AndI keeps zf; with its registers in range
Comp sets eq whatever it was, and the bitwise four zf; and an instruction other than Jeq and Jneq (Jz and Jnz) does
the same to all other state whatever eq (zf) was. Cites R24. -/
def Obligations.FlagsHaveOneKindOfWriterAndReader : Prop :=
  ∀ (i : Instr) (s t : State) (b : Bool), exec i s = .next t →
    (i.tag ≠ .comp → t.eqFlag = s.eqFlag) ∧
    (i.tag ∉ [Tag.and, .or, .xor, .andI] → t.zeroFlag = s.zeroFlag) ∧
    (i.tag = .comp → i.regsInRange = true → exec i { s with eqFlag := b } = .next t) ∧
    (i.tag ∈ [Tag.and, .or, .xor, .andI] → i.regsInRange = true → exec i { s with zeroFlag := b } = .next t) ∧
    (i.tag ∉ [Tag.comp, .jeq, .jneq] → exec i { s with eqFlag := b } = .next { t with eqFlag := b }) ∧
    (i.tag ∉ [Tag.and, .or, .xor, .andI, .jz, .jnz] →
      exec i { s with zeroFlag := b } = .next { t with zeroFlag := b })

/-- For each piece of state, an instruction outside the list the access matrix gives it leaves it as it was; no
instruction writes the configuration, the latch, the stop request, the schedule or the consumer's log; only JumpDt
moves the model's clock record. Cites 10_state.md R41, 10_state.md R26, 10_state.md R34. -/
def Obligations.OnlyOwningInstructionsWriteState : Prop :=
  ∀ (i : Instr) (s t : State), exec i s = .next t →
    (i.tag ∉ [Tag.loadI, .loadR, .add, .sub, .mul, .div, .and, .or, .xor, .andI, .inc, .dec, .pop, .input] → t.x = s.x) ∧
    (i.tag ∉ [Tag.jump, .jeq, .jneq, .jz, .jnz, .jumpDt, .call, .ret] → t.pc = s.pc) ∧
    (i.tag ≠ .comp → t.eqFlag = s.eqFlag) ∧
    (i.tag ∉ [Tag.and, .or, .xor, .andI] → t.zeroFlag = s.zeroFlag) ∧
    (i.tag ∉ [Tag.push, .pop] → t.ds = s.ds) ∧
    (i.tag ∉ [Tag.call, .ret] → t.cs = s.cs ∧ t.rs = s.rs) ∧
    (i.tag ∉ [Tag.color, .colorI] → t.fb = s.fb) ∧
    (i.tag ≠ .draw → t.mbox = s.mbox ∧ t.framesSent = s.framesSent) ∧
    (i.tag ≠ .jumpDt → t.tLast = s.tLast ∧ t.clock = s.clock ∧ t.clockReads = s.clockReads ∧
      t.clockScript = s.clockScript) ∧
    (i.tag ∉ [Tag.print, .printB] → t.diag = s.diag) ∧
    (i.regsInRange = true → i.tag ∉ [Tag.halt, .illegal, .div, .ret, .color, .colorI] →
      t.run = s.run ∧ t.chanOpen = s.chanOpen) ∧
    (t.cfg = s.cfg ∧ t.ctrl = s.ctrl ∧ t.stopReq = s.stopReq ∧ t.sched = s.sched ∧
      t.recurrence = s.recurrence ∧ t.movesDrawn = s.movesDrawn ∧ t.taken = s.taken)

/-- Two states that agree on all a program can observe, and differ in any way in the frame buffer, mailbox, diagnostic
output, frame count, channel, stop request, schedule and consumer's log, agree on it again after executing the same
instruction, faults included. Cites 10_state.md R42, 10_state.md R31. -/
def Obligations.UnobservableStateNeverInfluencesProgram : Prop :=
  ∀ (i : Instr) (s s' t t' : State), s.programView = s'.programView → exec i s = .next t → exec i s' = .next t' →
    t.programView = t'.programView

/-- Whenever a running engine's instruction ends the run, normally or by a fault, it wrote only run and the channel; and
a whole Engine step that ends the run changed, beside its place in the schedule, only pc, run and the channel. The
generalisation from Div to every fault is the spec's decision D8 (log 7). Cites 60_exceptions.md R245,
60_exceptions.md R240, 92_eei_decisions.md D8. -/
def Obligations.FaultsWriteOnlyRunAndChannel : Prop :=
  (∀ (i : Instr) (s t : State) (why : Reason), s.run = .running → exec i s = .next t → t.run = .halted why →
      t = { s with run := .halted why, chanOpen := false }) ∧
    ∀ (s t : State) (why : Reason), s.run = .running → step s = .next t → t.run = .halted why →
      t = { s.advance with pc := t.pc, run := .halted why, chanOpen := false }

/-- An instruction with a register operand of 64 or more always halts with RegisterRangeError, whatever the values (the
order of the checks is decision D6, log 5). With its registers in range, a running engine's instruction ends the run
only as Halt by Halt, DecodeError by Illegal, ArithmeticError by Div, FrameBoundsError by Color or ColorI,
CallStackError by Ret. Cites 60_exceptions.md R242, 60_exceptions.md R244, 92_eei_decisions.md D6. -/
def Obligations.EachInstructionRaisesOnlyItsFaults : Prop :=
  ∀ (i : Instr) (s t : State), s.run = .running → exec i s = .next t →
    (i.regsInRange = false → t.run = .halted .registerRangeError) ∧
      (i.regsInRange = true → ∀ why, t.run = .halted why →
        (why = .halt ∧ i.tag = .halt) ∨ (why = .decodeError ∧ i.tag = .illegal) ∨
        (why = .arithmeticError ∧ i.tag = .div) ∨
        (why = .frameBoundsError ∧ i.tag ∈ [Tag.color, .colorI]) ∨ (why = .callStackError ∧ i.tag = .ret))

/-- Every step of every agent keeps the whole configuration record: program memory is immutable and WIDTH, HEIGHT,
PERIOD and T0 are fixed for a run. Cites 10_state.md R37, 10_state.md R38, 20_memory.md R74. -/
def Obligations.ConfigurationNeverChanges : Prop :=
  ∀ s t : State, step s = .next t → t.cfg = s.cfg

/-- The sparse form is canonical: equal contents means equal data, so comparing frames compares their bytes. The form is
the model's own representation (log 25). Cites 10_state.md R28, 49_graphics.md R226. -/
def Obligations.CanonicalMemoriesWithEqualReadsAreEqual : Prop :=
  ∀ m n : Memory, m.wf = true → n.wf = true → (∀ a, m.read a = n.read a) → m = n

/-- In a frame wider or taller than 256, from a canonical buffer, no step of any agent changes a byte of a pixel whose x
or y coordinate is above 255: such pixels keep what they held, 0 from reset. That each coordinate is checked, not
the offset, is the spec's resolution C2 (log 22). Cites 20_memory.md R62, 49_graphics.md R221, 90_conflicts.md C2. -/
def Obligations.PixelsBeyondByteCoordinatesNeverChange : Prop :=
  ∀ (s t : State) (px py c : Nat), s.fb.wf = true → step s = .next t →
    px < s.cfg.width → c < 4 → 255 < px ∨ 255 < py →
    t.fb.read ((px + py * s.cfg.width) * 4 + c) = s.fb.read ((px + py * s.cfg.width) * 4 + c)

/-- Every step either keeps the mailbox, or is the consumer's take and leaves it empty, or executes a Draw and leaves in
it a frame equal to the frame buffer; no pixel write touches a frame already sent. The details of the channel are
the spec's decision D15 (log 14). Cites 10_state.md R35, 49_graphics.md R226, 20_memory.md R71, 92_eei_decisions.md
D15. -/
def Obligations.MailboxChangesOnlyByDrawOrTake : Prop :=
  ∀ s t : State, step s = .next t →
    t.mbox = s.mbox ∨ (s.nextMove = .take ∧ t.mbox = none) ∨
      ((∃ rest, decode (s.cfg.prog.drop s.pc) = .ok .draw rest) ∧ s.engineReady ∧ t.mbox = some s.fb ∧ t.fb = s.fb)

/-- Every step leaves the diagnostic output and the log of take answers as they were with at most one entry appended to
each, so events stand in the order their steps happened. (The log of takes is the model's own, log 24.) That the
diagnostic output is a log of pairs is the spec's decision D13 (log 12). Cites 10_state.md R31, 48_io.md R213,
60_exceptions.md R260, 92_eei_decisions.md D13. -/
def Obligations.OutputsOnlyGrow : Prop :=
  ∀ s t : State, step s = .next t →
    (t.diag = s.diag ∨ ∃ e, t.diag = s.diag ++ [e]) ∧ (t.taken = s.taken ∨ ∃ r, t.taken = s.taken ++ [r])

/-- From every state whose throttle reference is not after the latest clock answer, every step keeps that order, and
neither the latest answer nor the reference goes back. Monotone answers are the spec's decision D9 (log 8). Cites
60_exceptions.md R257, 45_branch.md R176, 92_eei_decisions.md D9. -/
def Obligations.ClockAndThrottleNeverRunBackwards : Prop :=
  ∀ s t : State, s.tLast ≤ s.clock → step s = .next t →
    s.clock ≤ t.clock ∧ s.tLast ≤ t.tLast ∧ t.tLast ≤ t.clock

/-- After construction pc is 0, the data stack, call stack and return slot are empty, every byte of the frame buffer
reads 0, the latch is 0, the diagnostic output is empty, no frame was sent and the engine runs. (That run is Running
at reset, and not only once run() is called, is the model's choice, log 26.) Cites 10_state.md R40,
70_reset_and_hazards.md R290. -/
def Obligations.ResetLeavesStatedValues : Prop :=
  ∀ width height period t0 : Nat,
    (State.construct width height period t0).pc = 0 ∧ (State.construct width height period t0).ds = [] ∧
    (State.construct width height period t0).cs = [] ∧ (State.construct width height period t0).rs = none ∧
    (∀ a, (State.construct width height period t0).fb.read a = 0) ∧
    (State.construct width height period t0).ctrl = 0 ∧ (State.construct width height period t0).diag = [] ∧
    (State.construct width height period t0).framesSent = 0 ∧
    (State.construct width height period t0).run = .running

/-- After construction every register is 0 (D3), both flags are false (D4), t_last is T0 (D9), the channel is open and
the mailbox empty (D15), and no stop request stands (D16). The source is silent on these; logs 3, 8, 14 and 15.
Cites 92_eei_decisions.md D3, 92_eei_decisions.md D4, 92_eei_decisions.md D9, 92_eei_decisions.md D15,
92_eei_decisions.md D16. -/
def Obligations.ResetLeavesDecidedValues : Prop :=
  ∀ width height period t0 : Nat,
    (∀ (k : Nat) (h : k < 64), (State.construct width height period t0).x[k] = 0) ∧
    (State.construct width height period t0).eqFlag = false ∧
    (State.construct width height period t0).zeroFlag = false ∧
    (State.construct width height period t0).tLast = t0 ∧
    (State.construct width height period t0).chanOpen = true ∧
    (State.construct width height period t0).mbox = none ∧
    (State.construct width height period t0).stopReq = false

/-- From every state, whatever its engine did, construction of a further engine with frequency 0 is refused; with any
other it answers the reset state with the new dimensions, the latch as the producer left it and not 0, and a T0 not
before the latest clock answer; only the model's record of the Clock goes on beside it (log 8). Whatever program is
loaded, the latch keeps its value and the invariant of StepKeepsInvariant holds. That the first engine starts on a
latch of 0 and a run is never restarted is the spec's decision D20 (log 19); the refusal of frequency 0 is decision
D10 (log 9). That a frequency is a natural number of hertz is the model's own choice (log 29). Cites
70_reset_and_hazards.md R293, 60_exceptions.md R257, 92_eei_decisions.md D20, 92_eei_decisions.md D10. -/
def Obligations.FurtherEngineKeepsLatch : Prop :=
  ∀ (s : State) (width height f : Nat),
    (f = 0 → reconstructAtFrequency s width height f = .refused .zeroFrequency) ∧
    (f ≠ 0 → ∃ t, reconstructAtFrequency s width height f = .next t ∧ s.clock ≤ t.cfg.t0 ∧
      t = { State.construct width height (Config.periodTicks f) t.cfg.t0 with
        ctrl := s.ctrl
        clockReads := s.clockReads + 1
        clockScript := s.clockScript.tail } ∧
      ∀ prog : List Byte, (t.load prog).ctrl = s.ctrl ∧ Inv (t.load prog))

/-- From every state whose listed moves hold none of the Engine and whose endless part repeats some moves of the other
agents, a run of any number of steps answers a next state, and in it only the latch, the mailbox, the stop request,
the consumer's log and the place in the schedule differ: a running engine still runs, at the same pc. So a claim
that a run ends holds only with a premise on the schedule. The form of the schedule is the model's own (log 18).
Cites 60_exceptions.md R268, 60_exceptions.md R272, 93_implementation_defined.md U17. -/
def Obligations.OtherAgentsCanMoveForEver : Prop :=
  ∀ (s : State) (ms : List Move) (n : Nat), .engine ∉ s.sched → s.recurrence = .cycle ms → ms ≠ [] → .engine ∉ ms →
    ∃ t, steps n s = .next t ∧
      t = { s with ctrl := t.ctrl, mbox := t.mbox, stopReq := t.stopReq, sched := t.sched, taken := t.taken }
end

