-- ==== Sys2Proof/Laws/Operands.lean ====
section
/-! SUPPORT. Once, what the operand forms can do. -/

namespace Sys2Proof.Machine

open Sys2Proof

theorem regIndex_of_lt {o : Byte} (h : o.toNat < 64) : regIndex o = some ⟨o.toNat, h⟩ := dif_pos h

theorem regIndex_of_ge {o : Byte} (h : 64 ≤ o.toNat) : regIndex o = none := dif_neg (by omega)

/-- One register operand either goes on with its cell or raises `RegisterRangeError`. -/
theorem withReg_cases (o : Byte) (s : State) (f : Fin 64 → State) :
    (∃ h : o.toNat < 64, withReg o s f = f ⟨o.toNat, h⟩) ∨
      (64 ≤ o.toNat ∧ withReg o s f = s.terminate .registerRangeError) := by
  by_cases h : o.toNat < 64
  · exact .inl ⟨h, by simp [withReg, regIndex_of_lt h]⟩
  · exact .inr ⟨by omega, by simp [withReg, regIndex_of_ge (Nat.le_of_not_lt h)]⟩

/-- Two register operands either go on with their cells or raise `RegisterRangeError`. -/
theorem withRegs2_cases (o1 o2 : Byte) (s : State) (f : Fin 64 → Fin 64 → State) :
    (∃ (h1 : o1.toNat < 64) (h2 : o2.toNat < 64), withRegs2 o1 o2 s f = f ⟨o1.toNat, h1⟩ ⟨o2.toNat, h2⟩) ∨
      ((64 ≤ o1.toNat ∨ 64 ≤ o2.toNat) ∧ withRegs2 o1 o2 s f = s.terminate .registerRangeError) := by
  unfold withRegs2
  rcases withReg_cases o1 s fun i => withReg o2 s fun j => f i j with ⟨h1, e1⟩ | ⟨h1, e1⟩
  · rcases withReg_cases o2 s fun j => f ⟨o1.toNat, h1⟩ j with ⟨h2, e2⟩ | ⟨h2, e2⟩
    · exact .inl ⟨h1, h2, e1.trans e2⟩
    · exact .inr ⟨.inr h2, e1.trans e2⟩
  · exact .inr ⟨.inl h1, e1⟩

/-- Three register operands either go on with their cells or raise `RegisterRangeError`. -/
theorem withRegs3_cases (o1 o2 o3 : Byte) (s : State) (f : Fin 64 → Fin 64 → Fin 64 → State) :
    (∃ (h1 : o1.toNat < 64) (h2 : o2.toNat < 64) (h3 : o3.toNat < 64),
        withRegs3 o1 o2 o3 s f = f ⟨o1.toNat, h1⟩ ⟨o2.toNat, h2⟩ ⟨o3.toNat, h3⟩) ∨
      ((64 ≤ o1.toNat ∨ 64 ≤ o2.toNat ∨ 64 ≤ o3.toNat) ∧
        withRegs3 o1 o2 o3 s f = s.terminate .registerRangeError) := by
  rcases withReg_cases o1 s fun i => withRegs2 o2 o3 s (f i) with ⟨h1, e1⟩ | ⟨h1, e1⟩
  · rcases withRegs2_cases o2 o3 s (f ⟨o1.toNat, h1⟩) with ⟨h2, h3, e2⟩ | ⟨h2, e2⟩
    · exact .inl ⟨h1, h2, h3, e1.trans e2⟩
    · exact .inr ⟨.inr h2, e1.trans e2⟩
  · exact .inr ⟨.inl h1, e1⟩

end Sys2Proof.Machine
end

