-- ==== Sys2Proof/Laws/Memory.lean ====
section
/-! SUPPORT. Reading after writing, and every memory operation keeps the canonical form and the size. -/

namespace Sys2Proof.Machine

open Sys2Proof

/-- The cell list's half of `Memory.wf`, as a proposition. -/
def CellsWf (cs : List Host.Cell) : Prop :=
  cs.Pairwise (fun c d => c.1 < d.1) ∧ ∀ c ∈ cs, c.2 ≠ Memory.blank

theorem Memory.wf_iff (m : Memory) : m.wf = true ↔ CellsWf m.cells := by
  simp [Memory.wf, CellsWf, List.all_eq_true]

theorem Memory.inside_iff (m : Memory) (n : Nat) : m.inside n = true ↔ ∀ c ∈ m.cells, c.1 < n := by
  simp [Memory.inside, List.all_eq_true]

/-- Below the first listed address nothing is listed. -/
theorem readCells_below (cs : List Host.Cell) (a : Nat) (h : ∀ c ∈ cs, a < c.1) :
    readCells cs a = Memory.blank := by
  induction cs with
  | nil => rfl
  | cons c rest ih =>
    have hc := h c (by simp)
    have : c.1 ≠ a := by omega
    simp [readCells, this, ih fun d hd => h d (by simp [hd])]

/-- A written cell lies at the written address or was there before. -/
theorem mem_writeCells (cs : List Host.Cell) (a : Nat) (b : Byte) (c : Host.Cell)
    (h : c ∈ writeCells cs a b) : c = (a, b) ∧ b ≠ Memory.blank ∨ c ∈ cs := by
  induction cs with
  | nil =>
    simp only [writeCells] at h
    split at h <;> simp_all
  | cons d rest ih =>
    simp only [writeCells] at h
    split at h
    · split at h <;> simp_all
    · split at h
      · split at h
        · simp_all
        · simp_all
          tauto
      · simp only [List.mem_cons] at h
        rcases h with h | h
        · exact .inr (by simp [h])
        · rcases ih h with h | h
          · exact .inl h
          · exact .inr (by simp [h])

theorem cellsWf_writeCells (cs : List Host.Cell) (a : Nat) (b : Byte) (h : CellsWf cs) :
    CellsWf (writeCells cs a b) := by
  refine ⟨?_, fun c hc => ?_⟩
  · obtain ⟨hp, -⟩ := h
    induction cs with
    | nil => simp only [writeCells]; split <;> simp
    | cons d rest ih =>
      have hp' := List.pairwise_cons.mp hp
      simp only [writeCells]
      split
      · split
        · exact hp
        · refine List.pairwise_cons.mpr ⟨fun e he => ?_, hp⟩
          rcases List.mem_cons.mp he with rfl | he
          · assumption
          · have := hp'.1 e he
            dsimp only
            omega
      · split
        · rename_i heq
          split
          · exact hp'.2
          · exact List.pairwise_cons.mpr ⟨fun e he => by have := hp'.1 e he; dsimp only; omega, hp'.2⟩
        · refine List.pairwise_cons.mpr ⟨fun e he => ?_, ih hp'.2⟩
          rcases mem_writeCells rest a b e he with ⟨rfl, -⟩ | he
          · dsimp only
            omega
          · exact hp'.1 e he
  · rcases mem_writeCells cs a b c hc with ⟨rfl, hb⟩ | hc
    · exact hb
    · exact h.2 c hc

/-- A write keeps the canonical form. -/
theorem Memory.write_wf (m : Memory) (a : Nat) (b : Byte) (h : m.wf = true) : (m.write a b).wf = true :=
  (Memory.wf_iff _).mpr (cellsWf_writeCells _ a b ((Memory.wf_iff m).mp h))

/-- A write inside the size keeps the cells inside it. -/
theorem Memory.write_inside (m : Memory) (a : Nat) (b : Byte) (n : Nat) (ha : a < n) (h : m.inside n = true) :
    (m.write a b).inside n = true := by
  rw [Memory.inside_iff] at *
  intro c hc
  rcases mem_writeCells m.cells a b c hc with ⟨rfl, -⟩ | hc
  · exact ha
  · exact h c hc

theorem readCells_writeCells (cs : List Host.Cell) (a k : Nat) (b : Byte)
    (h : cs.Pairwise fun c d => c.1 < d.1) :
    readCells (writeCells cs a b) k = if k = a then b else readCells cs k := by
  induction cs with
  | nil =>
    simp only [writeCells]
    split <;> simp_all [readCells, eq_comm]
  | cons d rest ih =>
    obtain ⟨hd, hrest⟩ := List.pairwise_cons.mp h
    simp only [writeCells]
    split
    · have hbelow : readCells (d :: rest) a = Memory.blank :=
        readCells_below _ _ fun c hc => by
          rcases List.mem_cons.mp hc with rfl | hc
          · assumption
          · have := hd c hc
            omega
      split
      · split
        · simp_all
        · rfl
      · by_cases hk : k = a
        · simp [readCells, hk]
        · simp [readCells, hk, Ne.symm hk]
    · split
      · rename_i heq
        have hbelow : readCells rest a = Memory.blank :=
          readCells_below _ _ fun c hc => by have := hd c hc; omega
        split
        · by_cases hk : k = a
          · simp_all
          · have : d.1 ≠ k := by omega
            simp [readCells, hk, this]
        · by_cases hk : k = a
          · simp [readCells, hk]
          · have : d.1 ≠ k := by omega
            simp [readCells, hk, this, Ne.symm hk]
      · simp only [readCells, ih hrest]
        by_cases hk : d.1 = k
        · have : k ≠ a := by omega
          simp [hk, this]
        · simp [hk]

/-- Read after write, in canonical memory. -/
theorem Memory.read_write (m : Memory) (a k : Nat) (b : Byte) (h : m.wf = true) :
    (m.write a b).read k = if k = a then b else m.read k :=
  readCells_writeCells _ _ _ _ ((Memory.wf_iff m).mp h).1

theorem Memory.writePixel_wf (m : Memory) (a : Nat) (c : Rgba) (h : m.wf = true) : (m.writePixel a c).wf = true :=
  write_wf _ _ _ (write_wf _ _ _ (write_wf _ _ _ (write_wf _ _ _ h)))

theorem Memory.writePixel_inside (m : Memory) (a : Nat) (c : Rgba) (n : Nat) (ha : a + 3 < n)
    (h : m.inside n = true) : (m.writePixel a c).inside n = true := by
  unfold Memory.writePixel
  refine write_inside _ _ _ _ (by omega) (write_inside _ _ _ _ (by omega) (write_inside _ _ _ _ (by omega)
    (write_inside _ _ _ _ (by omega) h)))

/-- All that a pixel write does to the bytes. -/
theorem Memory.read_writePixel (m : Memory) (a k : Nat) (c : Rgba) (h : m.wf = true) :
    (m.writePixel a c).read k =
      if k = a then c.red else if k = a + 1 then c.green else if k = a + 2 then c.blue
      else if k = a + 3 then c.alpha else m.read k := by
  have h1 := write_wf m a c.red h
  have h2 := write_wf _ (a + 1) c.green h1
  have h3 := write_wf _ (a + 2) c.blue h2
  rw [Memory.writePixel, read_write _ _ _ _ h3, read_write _ _ _ _ h2, read_write _ _ _ _ h1, read_write _ _ _ _ h]
  split_ifs <;> first | rfl | omega

end Sys2Proof.Machine
end

