-- ==== Sys2Proof/Laws/State.lean ====
section
/-! SUPPORT. One lemma per field per named update of the state. -/

namespace Sys2Proof.Machine

open Sys2Proof

variable (s : State)

/-! `writeReg` -/

@[simp] theorem State.writeReg_cfg (i : Fin 64) (v : Byte) : (s.writeReg i v).cfg = s.cfg := rfl
@[simp] theorem State.writeReg_x (i : Fin 64) (v : Byte) : (s.writeReg i v).x = s.x.set i.val v i.isLt := rfl
@[simp] theorem State.writeReg_pc (i : Fin 64) (v : Byte) : (s.writeReg i v).pc = s.pc := rfl
@[simp] theorem State.writeReg_eqFlag (i : Fin 64) (v : Byte) : (s.writeReg i v).eqFlag = s.eqFlag := rfl
@[simp] theorem State.writeReg_zeroFlag (i : Fin 64) (v : Byte) : (s.writeReg i v).zeroFlag = s.zeroFlag := rfl
@[simp] theorem State.writeReg_ds (i : Fin 64) (v : Byte) : (s.writeReg i v).ds = s.ds := rfl
@[simp] theorem State.writeReg_cs (i : Fin 64) (v : Byte) : (s.writeReg i v).cs = s.cs := rfl
@[simp] theorem State.writeReg_rs (i : Fin 64) (v : Byte) : (s.writeReg i v).rs = s.rs := rfl
@[simp] theorem State.writeReg_fb (i : Fin 64) (v : Byte) : (s.writeReg i v).fb = s.fb := rfl
@[simp] theorem State.writeReg_run (i : Fin 64) (v : Byte) : (s.writeReg i v).run = s.run := rfl
@[simp] theorem State.writeReg_tLast (i : Fin 64) (v : Byte) : (s.writeReg i v).tLast = s.tLast := rfl
@[simp] theorem State.writeReg_diag (i : Fin 64) (v : Byte) : (s.writeReg i v).diag = s.diag := rfl
@[simp] theorem State.writeReg_framesSent (i : Fin 64) (v : Byte) : (s.writeReg i v).framesSent = s.framesSent := rfl
@[simp] theorem State.writeReg_chanOpen (i : Fin 64) (v : Byte) : (s.writeReg i v).chanOpen = s.chanOpen := rfl
@[simp] theorem State.writeReg_ctrl (i : Fin 64) (v : Byte) : (s.writeReg i v).ctrl = s.ctrl := rfl
@[simp] theorem State.writeReg_mbox (i : Fin 64) (v : Byte) : (s.writeReg i v).mbox = s.mbox := rfl
@[simp] theorem State.writeReg_stopReq (i : Fin 64) (v : Byte) : (s.writeReg i v).stopReq = s.stopReq := rfl
@[simp] theorem State.writeReg_sched (i : Fin 64) (v : Byte) : (s.writeReg i v).sched = s.sched := rfl
@[simp] theorem State.writeReg_recurrence (i : Fin 64) (v : Byte) : (s.writeReg i v).recurrence = s.recurrence := rfl
@[simp] theorem State.writeReg_movesDrawn (i : Fin 64) (v : Byte) : (s.writeReg i v).movesDrawn = s.movesDrawn := rfl
@[simp] theorem State.writeReg_clock (i : Fin 64) (v : Byte) : (s.writeReg i v).clock = s.clock := rfl
@[simp] theorem State.writeReg_clockReads (i : Fin 64) (v : Byte) : (s.writeReg i v).clockReads = s.clockReads := rfl
@[simp] theorem State.writeReg_clockScript (i : Fin 64) (v : Byte) : (s.writeReg i v).clockScript = s.clockScript := rfl
@[simp] theorem State.writeReg_taken (i : Fin 64) (v : Byte) : (s.writeReg i v).taken = s.taken := rfl

/-! `setPc` -/

@[simp] theorem State.setPc_cfg (t : Nat) : (s.setPc t).cfg = s.cfg := rfl
@[simp] theorem State.setPc_x (t : Nat) : (s.setPc t).x = s.x := rfl
@[simp] theorem State.setPc_pc (t : Nat) : (s.setPc t).pc = t := rfl
@[simp] theorem State.setPc_eqFlag (t : Nat) : (s.setPc t).eqFlag = s.eqFlag := rfl
@[simp] theorem State.setPc_zeroFlag (t : Nat) : (s.setPc t).zeroFlag = s.zeroFlag := rfl
@[simp] theorem State.setPc_ds (t : Nat) : (s.setPc t).ds = s.ds := rfl
@[simp] theorem State.setPc_cs (t : Nat) : (s.setPc t).cs = s.cs := rfl
@[simp] theorem State.setPc_rs (t : Nat) : (s.setPc t).rs = s.rs := rfl
@[simp] theorem State.setPc_fb (t : Nat) : (s.setPc t).fb = s.fb := rfl
@[simp] theorem State.setPc_run (t : Nat) : (s.setPc t).run = s.run := rfl
@[simp] theorem State.setPc_tLast (t : Nat) : (s.setPc t).tLast = s.tLast := rfl
@[simp] theorem State.setPc_diag (t : Nat) : (s.setPc t).diag = s.diag := rfl
@[simp] theorem State.setPc_framesSent (t : Nat) : (s.setPc t).framesSent = s.framesSent := rfl
@[simp] theorem State.setPc_chanOpen (t : Nat) : (s.setPc t).chanOpen = s.chanOpen := rfl
@[simp] theorem State.setPc_ctrl (t : Nat) : (s.setPc t).ctrl = s.ctrl := rfl
@[simp] theorem State.setPc_mbox (t : Nat) : (s.setPc t).mbox = s.mbox := rfl
@[simp] theorem State.setPc_stopReq (t : Nat) : (s.setPc t).stopReq = s.stopReq := rfl
@[simp] theorem State.setPc_sched (t : Nat) : (s.setPc t).sched = s.sched := rfl
@[simp] theorem State.setPc_recurrence (t : Nat) : (s.setPc t).recurrence = s.recurrence := rfl
@[simp] theorem State.setPc_movesDrawn (t : Nat) : (s.setPc t).movesDrawn = s.movesDrawn := rfl
@[simp] theorem State.setPc_clock (t : Nat) : (s.setPc t).clock = s.clock := rfl
@[simp] theorem State.setPc_clockReads (t : Nat) : (s.setPc t).clockReads = s.clockReads := rfl
@[simp] theorem State.setPc_clockScript (t : Nat) : (s.setPc t).clockScript = s.clockScript := rfl
@[simp] theorem State.setPc_taken (t : Nat) : (s.setPc t).taken = s.taken := rfl

/-! `terminate` -/

@[simp] theorem State.terminate_cfg (why : Reason) : (s.terminate why).cfg = s.cfg := rfl
@[simp] theorem State.terminate_x (why : Reason) : (s.terminate why).x = s.x := rfl
@[simp] theorem State.terminate_pc (why : Reason) : (s.terminate why).pc = s.pc := rfl
@[simp] theorem State.terminate_eqFlag (why : Reason) : (s.terminate why).eqFlag = s.eqFlag := rfl
@[simp] theorem State.terminate_zeroFlag (why : Reason) : (s.terminate why).zeroFlag = s.zeroFlag := rfl
@[simp] theorem State.terminate_ds (why : Reason) : (s.terminate why).ds = s.ds := rfl
@[simp] theorem State.terminate_cs (why : Reason) : (s.terminate why).cs = s.cs := rfl
@[simp] theorem State.terminate_rs (why : Reason) : (s.terminate why).rs = s.rs := rfl
@[simp] theorem State.terminate_fb (why : Reason) : (s.terminate why).fb = s.fb := rfl
@[simp] theorem State.terminate_run (why : Reason) : (s.terminate why).run = .halted why := rfl
@[simp] theorem State.terminate_tLast (why : Reason) : (s.terminate why).tLast = s.tLast := rfl
@[simp] theorem State.terminate_diag (why : Reason) : (s.terminate why).diag = s.diag := rfl
@[simp] theorem State.terminate_framesSent (why : Reason) : (s.terminate why).framesSent = s.framesSent := rfl
@[simp] theorem State.terminate_chanOpen (why : Reason) : (s.terminate why).chanOpen = false := rfl
@[simp] theorem State.terminate_ctrl (why : Reason) : (s.terminate why).ctrl = s.ctrl := rfl
@[simp] theorem State.terminate_mbox (why : Reason) : (s.terminate why).mbox = s.mbox := rfl
@[simp] theorem State.terminate_stopReq (why : Reason) : (s.terminate why).stopReq = s.stopReq := rfl
@[simp] theorem State.terminate_sched (why : Reason) : (s.terminate why).sched = s.sched := rfl
@[simp] theorem State.terminate_recurrence (why : Reason) : (s.terminate why).recurrence = s.recurrence := rfl
@[simp] theorem State.terminate_movesDrawn (why : Reason) : (s.terminate why).movesDrawn = s.movesDrawn := rfl
@[simp] theorem State.terminate_clock (why : Reason) : (s.terminate why).clock = s.clock := rfl
@[simp] theorem State.terminate_clockReads (why : Reason) : (s.terminate why).clockReads = s.clockReads := rfl
@[simp] theorem State.terminate_clockScript (why : Reason) : (s.terminate why).clockScript = s.clockScript := rfl
@[simp] theorem State.terminate_taken (why : Reason) : (s.terminate why).taken = s.taken := rfl

/-! `pushData` -/

@[simp] theorem State.pushData_cfg (v : Byte) : (s.pushData v).cfg = s.cfg := rfl
@[simp] theorem State.pushData_x (v : Byte) : (s.pushData v).x = s.x := rfl
@[simp] theorem State.pushData_pc (v : Byte) : (s.pushData v).pc = s.pc := rfl
@[simp] theorem State.pushData_eqFlag (v : Byte) : (s.pushData v).eqFlag = s.eqFlag := rfl
@[simp] theorem State.pushData_zeroFlag (v : Byte) : (s.pushData v).zeroFlag = s.zeroFlag := rfl
@[simp] theorem State.pushData_ds (v : Byte) : (s.pushData v).ds = s.ds ++ [v] := rfl
@[simp] theorem State.pushData_cs (v : Byte) : (s.pushData v).cs = s.cs := rfl
@[simp] theorem State.pushData_rs (v : Byte) : (s.pushData v).rs = s.rs := rfl
@[simp] theorem State.pushData_fb (v : Byte) : (s.pushData v).fb = s.fb := rfl
@[simp] theorem State.pushData_run (v : Byte) : (s.pushData v).run = s.run := rfl
@[simp] theorem State.pushData_tLast (v : Byte) : (s.pushData v).tLast = s.tLast := rfl
@[simp] theorem State.pushData_diag (v : Byte) : (s.pushData v).diag = s.diag := rfl
@[simp] theorem State.pushData_framesSent (v : Byte) : (s.pushData v).framesSent = s.framesSent := rfl
@[simp] theorem State.pushData_chanOpen (v : Byte) : (s.pushData v).chanOpen = s.chanOpen := rfl
@[simp] theorem State.pushData_ctrl (v : Byte) : (s.pushData v).ctrl = s.ctrl := rfl
@[simp] theorem State.pushData_mbox (v : Byte) : (s.pushData v).mbox = s.mbox := rfl
@[simp] theorem State.pushData_stopReq (v : Byte) : (s.pushData v).stopReq = s.stopReq := rfl
@[simp] theorem State.pushData_sched (v : Byte) : (s.pushData v).sched = s.sched := rfl
@[simp] theorem State.pushData_recurrence (v : Byte) : (s.pushData v).recurrence = s.recurrence := rfl
@[simp] theorem State.pushData_movesDrawn (v : Byte) : (s.pushData v).movesDrawn = s.movesDrawn := rfl
@[simp] theorem State.pushData_clock (v : Byte) : (s.pushData v).clock = s.clock := rfl
@[simp] theorem State.pushData_clockReads (v : Byte) : (s.pushData v).clockReads = s.clockReads := rfl
@[simp] theorem State.pushData_clockScript (v : Byte) : (s.pushData v).clockScript = s.clockScript := rfl
@[simp] theorem State.pushData_taken (v : Byte) : (s.pushData v).taken = s.taken := rfl

/-! `dropData` -/

@[simp] theorem State.dropData_cfg : (s.dropData).cfg = s.cfg := rfl
@[simp] theorem State.dropData_x : (s.dropData).x = s.x := rfl
@[simp] theorem State.dropData_pc : (s.dropData).pc = s.pc := rfl
@[simp] theorem State.dropData_eqFlag : (s.dropData).eqFlag = s.eqFlag := rfl
@[simp] theorem State.dropData_zeroFlag : (s.dropData).zeroFlag = s.zeroFlag := rfl
@[simp] theorem State.dropData_ds : (s.dropData).ds = s.ds.dropLast := rfl
@[simp] theorem State.dropData_cs : (s.dropData).cs = s.cs := rfl
@[simp] theorem State.dropData_rs : (s.dropData).rs = s.rs := rfl
@[simp] theorem State.dropData_fb : (s.dropData).fb = s.fb := rfl
@[simp] theorem State.dropData_run : (s.dropData).run = s.run := rfl
@[simp] theorem State.dropData_tLast : (s.dropData).tLast = s.tLast := rfl
@[simp] theorem State.dropData_diag : (s.dropData).diag = s.diag := rfl
@[simp] theorem State.dropData_framesSent : (s.dropData).framesSent = s.framesSent := rfl
@[simp] theorem State.dropData_chanOpen : (s.dropData).chanOpen = s.chanOpen := rfl
@[simp] theorem State.dropData_ctrl : (s.dropData).ctrl = s.ctrl := rfl
@[simp] theorem State.dropData_mbox : (s.dropData).mbox = s.mbox := rfl
@[simp] theorem State.dropData_stopReq : (s.dropData).stopReq = s.stopReq := rfl
@[simp] theorem State.dropData_sched : (s.dropData).sched = s.sched := rfl
@[simp] theorem State.dropData_recurrence : (s.dropData).recurrence = s.recurrence := rfl
@[simp] theorem State.dropData_movesDrawn : (s.dropData).movesDrawn = s.movesDrawn := rfl
@[simp] theorem State.dropData_clock : (s.dropData).clock = s.clock := rfl
@[simp] theorem State.dropData_clockReads : (s.dropData).clockReads = s.clockReads := rfl
@[simp] theorem State.dropData_clockScript : (s.dropData).clockScript = s.clockScript := rfl
@[simp] theorem State.dropData_taken : (s.dropData).taken = s.taken := rfl

/-! `enterCall` -/

@[simp] theorem State.enterCall_cfg (t : Nat) : (s.enterCall t).cfg = s.cfg := rfl
@[simp] theorem State.enterCall_x (t : Nat) : (s.enterCall t).x = s.x := rfl
@[simp] theorem State.enterCall_pc (t : Nat) : (s.enterCall t).pc = t := rfl
@[simp] theorem State.enterCall_eqFlag (t : Nat) : (s.enterCall t).eqFlag = s.eqFlag := rfl
@[simp] theorem State.enterCall_zeroFlag (t : Nat) : (s.enterCall t).zeroFlag = s.zeroFlag := rfl
@[simp] theorem State.enterCall_ds (t : Nat) : (s.enterCall t).ds = s.ds := rfl
@[simp] theorem State.enterCall_cs (t : Nat) : (s.enterCall t).cs = s.cs ++ [s.rs] := rfl
@[simp] theorem State.enterCall_rs (t : Nat) : (s.enterCall t).rs = some s.pc := rfl
@[simp] theorem State.enterCall_fb (t : Nat) : (s.enterCall t).fb = s.fb := rfl
@[simp] theorem State.enterCall_run (t : Nat) : (s.enterCall t).run = s.run := rfl
@[simp] theorem State.enterCall_tLast (t : Nat) : (s.enterCall t).tLast = s.tLast := rfl
@[simp] theorem State.enterCall_diag (t : Nat) : (s.enterCall t).diag = s.diag := rfl
@[simp] theorem State.enterCall_framesSent (t : Nat) : (s.enterCall t).framesSent = s.framesSent := rfl
@[simp] theorem State.enterCall_chanOpen (t : Nat) : (s.enterCall t).chanOpen = s.chanOpen := rfl
@[simp] theorem State.enterCall_ctrl (t : Nat) : (s.enterCall t).ctrl = s.ctrl := rfl
@[simp] theorem State.enterCall_mbox (t : Nat) : (s.enterCall t).mbox = s.mbox := rfl
@[simp] theorem State.enterCall_stopReq (t : Nat) : (s.enterCall t).stopReq = s.stopReq := rfl
@[simp] theorem State.enterCall_sched (t : Nat) : (s.enterCall t).sched = s.sched := rfl
@[simp] theorem State.enterCall_recurrence (t : Nat) : (s.enterCall t).recurrence = s.recurrence := rfl
@[simp] theorem State.enterCall_movesDrawn (t : Nat) : (s.enterCall t).movesDrawn = s.movesDrawn := rfl
@[simp] theorem State.enterCall_clock (t : Nat) : (s.enterCall t).clock = s.clock := rfl
@[simp] theorem State.enterCall_clockReads (t : Nat) : (s.enterCall t).clockReads = s.clockReads := rfl
@[simp] theorem State.enterCall_clockScript (t : Nat) : (s.enterCall t).clockScript = s.clockScript := rfl
@[simp] theorem State.enterCall_taken (t : Nat) : (s.enterCall t).taken = s.taken := rfl

/-! `leaveCall` -/

@[simp] theorem State.leaveCall_cfg (a : Nat) : (s.leaveCall a).cfg = s.cfg := rfl
@[simp] theorem State.leaveCall_x (a : Nat) : (s.leaveCall a).x = s.x := rfl
@[simp] theorem State.leaveCall_pc (a : Nat) : (s.leaveCall a).pc = a := rfl
@[simp] theorem State.leaveCall_eqFlag (a : Nat) : (s.leaveCall a).eqFlag = s.eqFlag := rfl
@[simp] theorem State.leaveCall_zeroFlag (a : Nat) : (s.leaveCall a).zeroFlag = s.zeroFlag := rfl
@[simp] theorem State.leaveCall_ds (a : Nat) : (s.leaveCall a).ds = s.ds := rfl
@[simp] theorem State.leaveCall_cs (a : Nat) : (s.leaveCall a).cs = s.cs.dropLast := rfl
@[simp] theorem State.leaveCall_rs (a : Nat) : (s.leaveCall a).rs = s.cs.getLast?.getD none := rfl
@[simp] theorem State.leaveCall_fb (a : Nat) : (s.leaveCall a).fb = s.fb := rfl
@[simp] theorem State.leaveCall_run (a : Nat) : (s.leaveCall a).run = s.run := rfl
@[simp] theorem State.leaveCall_tLast (a : Nat) : (s.leaveCall a).tLast = s.tLast := rfl
@[simp] theorem State.leaveCall_diag (a : Nat) : (s.leaveCall a).diag = s.diag := rfl
@[simp] theorem State.leaveCall_framesSent (a : Nat) : (s.leaveCall a).framesSent = s.framesSent := rfl
@[simp] theorem State.leaveCall_chanOpen (a : Nat) : (s.leaveCall a).chanOpen = s.chanOpen := rfl
@[simp] theorem State.leaveCall_ctrl (a : Nat) : (s.leaveCall a).ctrl = s.ctrl := rfl
@[simp] theorem State.leaveCall_mbox (a : Nat) : (s.leaveCall a).mbox = s.mbox := rfl
@[simp] theorem State.leaveCall_stopReq (a : Nat) : (s.leaveCall a).stopReq = s.stopReq := rfl
@[simp] theorem State.leaveCall_sched (a : Nat) : (s.leaveCall a).sched = s.sched := rfl
@[simp] theorem State.leaveCall_recurrence (a : Nat) : (s.leaveCall a).recurrence = s.recurrence := rfl
@[simp] theorem State.leaveCall_movesDrawn (a : Nat) : (s.leaveCall a).movesDrawn = s.movesDrawn := rfl
@[simp] theorem State.leaveCall_clock (a : Nat) : (s.leaveCall a).clock = s.clock := rfl
@[simp] theorem State.leaveCall_clockReads (a : Nat) : (s.leaveCall a).clockReads = s.clockReads := rfl
@[simp] theorem State.leaveCall_clockScript (a : Nat) : (s.leaveCall a).clockScript = s.clockScript := rfl
@[simp] theorem State.leaveCall_taken (a : Nat) : (s.leaveCall a).taken = s.taken := rfl

/-! `readClock` -/

@[simp] theorem State.readClock_cfg : (s.readClock).cfg = s.cfg := rfl
@[simp] theorem State.readClock_x : (s.readClock).x = s.x := rfl
@[simp] theorem State.readClock_pc : (s.readClock).pc = s.pc := rfl
@[simp] theorem State.readClock_eqFlag : (s.readClock).eqFlag = s.eqFlag := rfl
@[simp] theorem State.readClock_zeroFlag : (s.readClock).zeroFlag = s.zeroFlag := rfl
@[simp] theorem State.readClock_ds : (s.readClock).ds = s.ds := rfl
@[simp] theorem State.readClock_cs : (s.readClock).cs = s.cs := rfl
@[simp] theorem State.readClock_rs : (s.readClock).rs = s.rs := rfl
@[simp] theorem State.readClock_fb : (s.readClock).fb = s.fb := rfl
@[simp] theorem State.readClock_run : (s.readClock).run = s.run := rfl
@[simp] theorem State.readClock_tLast : (s.readClock).tLast = s.tLast := rfl
@[simp] theorem State.readClock_diag : (s.readClock).diag = s.diag := rfl
@[simp] theorem State.readClock_framesSent : (s.readClock).framesSent = s.framesSent := rfl
@[simp] theorem State.readClock_chanOpen : (s.readClock).chanOpen = s.chanOpen := rfl
@[simp] theorem State.readClock_ctrl : (s.readClock).ctrl = s.ctrl := rfl
@[simp] theorem State.readClock_mbox : (s.readClock).mbox = s.mbox := rfl
@[simp] theorem State.readClock_stopReq : (s.readClock).stopReq = s.stopReq := rfl
@[simp] theorem State.readClock_sched : (s.readClock).sched = s.sched := rfl
@[simp] theorem State.readClock_recurrence : (s.readClock).recurrence = s.recurrence := rfl
@[simp] theorem State.readClock_movesDrawn : (s.readClock).movesDrawn = s.movesDrawn := rfl
@[simp] theorem State.readClock_clock : (s.readClock).clock = s.clockAnswer := rfl
@[simp] theorem State.readClock_clockReads : (s.readClock).clockReads = s.clockReads + 1 := rfl
@[simp] theorem State.readClock_clockScript : (s.readClock).clockScript = s.clockScript.tail := rfl
@[simp] theorem State.readClock_taken : (s.readClock).taken = s.taken := rfl

/-! `setThrottle` -/

@[simp] theorem State.setThrottle_cfg (t : Nat) : (s.setThrottle t).cfg = s.cfg := rfl
@[simp] theorem State.setThrottle_x (t : Nat) : (s.setThrottle t).x = s.x := rfl
@[simp] theorem State.setThrottle_pc (t : Nat) : (s.setThrottle t).pc = s.pc := rfl
@[simp] theorem State.setThrottle_eqFlag (t : Nat) : (s.setThrottle t).eqFlag = s.eqFlag := rfl
@[simp] theorem State.setThrottle_zeroFlag (t : Nat) : (s.setThrottle t).zeroFlag = s.zeroFlag := rfl
@[simp] theorem State.setThrottle_ds (t : Nat) : (s.setThrottle t).ds = s.ds := rfl
@[simp] theorem State.setThrottle_cs (t : Nat) : (s.setThrottle t).cs = s.cs := rfl
@[simp] theorem State.setThrottle_rs (t : Nat) : (s.setThrottle t).rs = s.rs := rfl
@[simp] theorem State.setThrottle_fb (t : Nat) : (s.setThrottle t).fb = s.fb := rfl
@[simp] theorem State.setThrottle_run (t : Nat) : (s.setThrottle t).run = s.run := rfl
@[simp] theorem State.setThrottle_tLast (t : Nat) : (s.setThrottle t).tLast = t := rfl
@[simp] theorem State.setThrottle_diag (t : Nat) : (s.setThrottle t).diag = s.diag := rfl
@[simp] theorem State.setThrottle_framesSent (t : Nat) : (s.setThrottle t).framesSent = s.framesSent := rfl
@[simp] theorem State.setThrottle_chanOpen (t : Nat) : (s.setThrottle t).chanOpen = s.chanOpen := rfl
@[simp] theorem State.setThrottle_ctrl (t : Nat) : (s.setThrottle t).ctrl = s.ctrl := rfl
@[simp] theorem State.setThrottle_mbox (t : Nat) : (s.setThrottle t).mbox = s.mbox := rfl
@[simp] theorem State.setThrottle_stopReq (t : Nat) : (s.setThrottle t).stopReq = s.stopReq := rfl
@[simp] theorem State.setThrottle_sched (t : Nat) : (s.setThrottle t).sched = s.sched := rfl
@[simp] theorem State.setThrottle_recurrence (t : Nat) : (s.setThrottle t).recurrence = s.recurrence := rfl
@[simp] theorem State.setThrottle_movesDrawn (t : Nat) : (s.setThrottle t).movesDrawn = s.movesDrawn := rfl
@[simp] theorem State.setThrottle_clock (t : Nat) : (s.setThrottle t).clock = s.clock := rfl
@[simp] theorem State.setThrottle_clockReads (t : Nat) : (s.setThrottle t).clockReads = s.clockReads := rfl
@[simp] theorem State.setThrottle_clockScript (t : Nat) : (s.setThrottle t).clockScript = s.clockScript := rfl
@[simp] theorem State.setThrottle_taken (t : Nat) : (s.setThrottle t).taken = s.taken := rfl

/-! `emit` -/

@[simp] theorem State.emit_cfg (r : Radix) (v : Byte) : (s.emit r v).cfg = s.cfg := rfl
@[simp] theorem State.emit_x (r : Radix) (v : Byte) : (s.emit r v).x = s.x := rfl
@[simp] theorem State.emit_pc (r : Radix) (v : Byte) : (s.emit r v).pc = s.pc := rfl
@[simp] theorem State.emit_eqFlag (r : Radix) (v : Byte) : (s.emit r v).eqFlag = s.eqFlag := rfl
@[simp] theorem State.emit_zeroFlag (r : Radix) (v : Byte) : (s.emit r v).zeroFlag = s.zeroFlag := rfl
@[simp] theorem State.emit_ds (r : Radix) (v : Byte) : (s.emit r v).ds = s.ds := rfl
@[simp] theorem State.emit_cs (r : Radix) (v : Byte) : (s.emit r v).cs = s.cs := rfl
@[simp] theorem State.emit_rs (r : Radix) (v : Byte) : (s.emit r v).rs = s.rs := rfl
@[simp] theorem State.emit_fb (r : Radix) (v : Byte) : (s.emit r v).fb = s.fb := rfl
@[simp] theorem State.emit_run (r : Radix) (v : Byte) : (s.emit r v).run = s.run := rfl
@[simp] theorem State.emit_tLast (r : Radix) (v : Byte) : (s.emit r v).tLast = s.tLast := rfl
@[simp] theorem State.emit_diag (r : Radix) (v : Byte) : (s.emit r v).diag = s.diag ++ [(r, v)] := rfl
@[simp] theorem State.emit_framesSent (r : Radix) (v : Byte) : (s.emit r v).framesSent = s.framesSent := rfl
@[simp] theorem State.emit_chanOpen (r : Radix) (v : Byte) : (s.emit r v).chanOpen = s.chanOpen := rfl
@[simp] theorem State.emit_ctrl (r : Radix) (v : Byte) : (s.emit r v).ctrl = s.ctrl := rfl
@[simp] theorem State.emit_mbox (r : Radix) (v : Byte) : (s.emit r v).mbox = s.mbox := rfl
@[simp] theorem State.emit_stopReq (r : Radix) (v : Byte) : (s.emit r v).stopReq = s.stopReq := rfl
@[simp] theorem State.emit_sched (r : Radix) (v : Byte) : (s.emit r v).sched = s.sched := rfl
@[simp] theorem State.emit_recurrence (r : Radix) (v : Byte) : (s.emit r v).recurrence = s.recurrence := rfl
@[simp] theorem State.emit_movesDrawn (r : Radix) (v : Byte) : (s.emit r v).movesDrawn = s.movesDrawn := rfl
@[simp] theorem State.emit_clock (r : Radix) (v : Byte) : (s.emit r v).clock = s.clock := rfl
@[simp] theorem State.emit_clockReads (r : Radix) (v : Byte) : (s.emit r v).clockReads = s.clockReads := rfl
@[simp] theorem State.emit_clockScript (r : Radix) (v : Byte) : (s.emit r v).clockScript = s.clockScript := rfl
@[simp] theorem State.emit_taken (r : Radix) (v : Byte) : (s.emit r v).taken = s.taken := rfl

/-! `sendFrame` -/

@[simp] theorem State.sendFrame_cfg : (s.sendFrame).cfg = s.cfg := rfl
@[simp] theorem State.sendFrame_x : (s.sendFrame).x = s.x := rfl
@[simp] theorem State.sendFrame_pc : (s.sendFrame).pc = s.pc := rfl
@[simp] theorem State.sendFrame_eqFlag : (s.sendFrame).eqFlag = s.eqFlag := rfl
@[simp] theorem State.sendFrame_zeroFlag : (s.sendFrame).zeroFlag = s.zeroFlag := rfl
@[simp] theorem State.sendFrame_ds : (s.sendFrame).ds = s.ds := rfl
@[simp] theorem State.sendFrame_cs : (s.sendFrame).cs = s.cs := rfl
@[simp] theorem State.sendFrame_rs : (s.sendFrame).rs = s.rs := rfl
@[simp] theorem State.sendFrame_fb : (s.sendFrame).fb = s.fb := rfl
@[simp] theorem State.sendFrame_run : (s.sendFrame).run = s.run := rfl
@[simp] theorem State.sendFrame_tLast : (s.sendFrame).tLast = s.tLast := rfl
@[simp] theorem State.sendFrame_diag : (s.sendFrame).diag = s.diag := rfl
@[simp] theorem State.sendFrame_framesSent : (s.sendFrame).framesSent = s.framesSent + 1 := rfl
@[simp] theorem State.sendFrame_chanOpen : (s.sendFrame).chanOpen = s.chanOpen := rfl
@[simp] theorem State.sendFrame_ctrl : (s.sendFrame).ctrl = s.ctrl := rfl
@[simp] theorem State.sendFrame_mbox : (s.sendFrame).mbox = some s.fb := rfl
@[simp] theorem State.sendFrame_stopReq : (s.sendFrame).stopReq = s.stopReq := rfl
@[simp] theorem State.sendFrame_sched : (s.sendFrame).sched = s.sched := rfl
@[simp] theorem State.sendFrame_recurrence : (s.sendFrame).recurrence = s.recurrence := rfl
@[simp] theorem State.sendFrame_movesDrawn : (s.sendFrame).movesDrawn = s.movesDrawn := rfl
@[simp] theorem State.sendFrame_clock : (s.sendFrame).clock = s.clock := rfl
@[simp] theorem State.sendFrame_clockReads : (s.sendFrame).clockReads = s.clockReads := rfl
@[simp] theorem State.sendFrame_clockScript : (s.sendFrame).clockScript = s.clockScript := rfl
@[simp] theorem State.sendFrame_taken : (s.sendFrame).taken = s.taken := rfl

/-! `press` -/

@[simp] theorem State.press_cfg (k : Fin 8) : (s.press k).cfg = s.cfg := rfl
@[simp] theorem State.press_x (k : Fin 8) : (s.press k).x = s.x := rfl
@[simp] theorem State.press_pc (k : Fin 8) : (s.press k).pc = s.pc := rfl
@[simp] theorem State.press_eqFlag (k : Fin 8) : (s.press k).eqFlag = s.eqFlag := rfl
@[simp] theorem State.press_zeroFlag (k : Fin 8) : (s.press k).zeroFlag = s.zeroFlag := rfl
@[simp] theorem State.press_ds (k : Fin 8) : (s.press k).ds = s.ds := rfl
@[simp] theorem State.press_cs (k : Fin 8) : (s.press k).cs = s.cs := rfl
@[simp] theorem State.press_rs (k : Fin 8) : (s.press k).rs = s.rs := rfl
@[simp] theorem State.press_fb (k : Fin 8) : (s.press k).fb = s.fb := rfl
@[simp] theorem State.press_run (k : Fin 8) : (s.press k).run = s.run := rfl
@[simp] theorem State.press_tLast (k : Fin 8) : (s.press k).tLast = s.tLast := rfl
@[simp] theorem State.press_diag (k : Fin 8) : (s.press k).diag = s.diag := rfl
@[simp] theorem State.press_framesSent (k : Fin 8) : (s.press k).framesSent = s.framesSent := rfl
@[simp] theorem State.press_chanOpen (k : Fin 8) : (s.press k).chanOpen = s.chanOpen := rfl
@[simp] theorem State.press_ctrl (k : Fin 8) : (s.press k).ctrl = s.ctrl ||| latchBit k := rfl
@[simp] theorem State.press_mbox (k : Fin 8) : (s.press k).mbox = s.mbox := rfl
@[simp] theorem State.press_stopReq (k : Fin 8) : (s.press k).stopReq = s.stopReq := rfl
@[simp] theorem State.press_sched (k : Fin 8) : (s.press k).sched = s.sched := rfl
@[simp] theorem State.press_recurrence (k : Fin 8) : (s.press k).recurrence = s.recurrence := rfl
@[simp] theorem State.press_movesDrawn (k : Fin 8) : (s.press k).movesDrawn = s.movesDrawn := rfl
@[simp] theorem State.press_clock (k : Fin 8) : (s.press k).clock = s.clock := rfl
@[simp] theorem State.press_clockReads (k : Fin 8) : (s.press k).clockReads = s.clockReads := rfl
@[simp] theorem State.press_clockScript (k : Fin 8) : (s.press k).clockScript = s.clockScript := rfl
@[simp] theorem State.press_taken (k : Fin 8) : (s.press k).taken = s.taken := rfl

/-! `release` -/

@[simp] theorem State.release_cfg (k : Fin 8) : (s.release k).cfg = s.cfg := rfl
@[simp] theorem State.release_x (k : Fin 8) : (s.release k).x = s.x := rfl
@[simp] theorem State.release_pc (k : Fin 8) : (s.release k).pc = s.pc := rfl
@[simp] theorem State.release_eqFlag (k : Fin 8) : (s.release k).eqFlag = s.eqFlag := rfl
@[simp] theorem State.release_zeroFlag (k : Fin 8) : (s.release k).zeroFlag = s.zeroFlag := rfl
@[simp] theorem State.release_ds (k : Fin 8) : (s.release k).ds = s.ds := rfl
@[simp] theorem State.release_cs (k : Fin 8) : (s.release k).cs = s.cs := rfl
@[simp] theorem State.release_rs (k : Fin 8) : (s.release k).rs = s.rs := rfl
@[simp] theorem State.release_fb (k : Fin 8) : (s.release k).fb = s.fb := rfl
@[simp] theorem State.release_run (k : Fin 8) : (s.release k).run = s.run := rfl
@[simp] theorem State.release_tLast (k : Fin 8) : (s.release k).tLast = s.tLast := rfl
@[simp] theorem State.release_diag (k : Fin 8) : (s.release k).diag = s.diag := rfl
@[simp] theorem State.release_framesSent (k : Fin 8) : (s.release k).framesSent = s.framesSent := rfl
@[simp] theorem State.release_chanOpen (k : Fin 8) : (s.release k).chanOpen = s.chanOpen := rfl
@[simp] theorem State.release_ctrl (k : Fin 8) : (s.release k).ctrl = s.ctrl &&& ~~~ latchBit k := rfl
@[simp] theorem State.release_mbox (k : Fin 8) : (s.release k).mbox = s.mbox := rfl
@[simp] theorem State.release_stopReq (k : Fin 8) : (s.release k).stopReq = s.stopReq := rfl
@[simp] theorem State.release_sched (k : Fin 8) : (s.release k).sched = s.sched := rfl
@[simp] theorem State.release_recurrence (k : Fin 8) : (s.release k).recurrence = s.recurrence := rfl
@[simp] theorem State.release_movesDrawn (k : Fin 8) : (s.release k).movesDrawn = s.movesDrawn := rfl
@[simp] theorem State.release_clock (k : Fin 8) : (s.release k).clock = s.clock := rfl
@[simp] theorem State.release_clockReads (k : Fin 8) : (s.release k).clockReads = s.clockReads := rfl
@[simp] theorem State.release_clockScript (k : Fin 8) : (s.release k).clockScript = s.clockScript := rfl
@[simp] theorem State.release_taken (k : Fin 8) : (s.release k).taken = s.taken := rfl

/-! `take` -/

@[simp] theorem State.take_cfg : (s.take).cfg = s.cfg := rfl
@[simp] theorem State.take_x : (s.take).x = s.x := rfl
@[simp] theorem State.take_pc : (s.take).pc = s.pc := rfl
@[simp] theorem State.take_eqFlag : (s.take).eqFlag = s.eqFlag := rfl
@[simp] theorem State.take_zeroFlag : (s.take).zeroFlag = s.zeroFlag := rfl
@[simp] theorem State.take_ds : (s.take).ds = s.ds := rfl
@[simp] theorem State.take_cs : (s.take).cs = s.cs := rfl
@[simp] theorem State.take_rs : (s.take).rs = s.rs := rfl
@[simp] theorem State.take_fb : (s.take).fb = s.fb := rfl
@[simp] theorem State.take_run : (s.take).run = s.run := rfl
@[simp] theorem State.take_tLast : (s.take).tLast = s.tLast := rfl
@[simp] theorem State.take_diag : (s.take).diag = s.diag := rfl
@[simp] theorem State.take_framesSent : (s.take).framesSent = s.framesSent := rfl
@[simp] theorem State.take_chanOpen : (s.take).chanOpen = s.chanOpen := rfl
@[simp] theorem State.take_ctrl : (s.take).ctrl = s.ctrl := rfl
@[simp] theorem State.take_mbox : (s.take).mbox = none := rfl
@[simp] theorem State.take_stopReq : (s.take).stopReq = s.stopReq := rfl
@[simp] theorem State.take_sched : (s.take).sched = s.sched := rfl
@[simp] theorem State.take_recurrence : (s.take).recurrence = s.recurrence := rfl
@[simp] theorem State.take_movesDrawn : (s.take).movesDrawn = s.movesDrawn := rfl
@[simp] theorem State.take_clock : (s.take).clock = s.clock := rfl
@[simp] theorem State.take_clockReads : (s.take).clockReads = s.clockReads := rfl
@[simp] theorem State.take_clockScript : (s.take).clockScript = s.clockScript := rfl
@[simp] theorem State.take_taken : (s.take).taken = s.taken ++ [s.takeAnswer] := rfl

/-! `requestStop` -/

@[simp] theorem State.requestStop_cfg : (s.requestStop).cfg = s.cfg := rfl
@[simp] theorem State.requestStop_x : (s.requestStop).x = s.x := rfl
@[simp] theorem State.requestStop_pc : (s.requestStop).pc = s.pc := rfl
@[simp] theorem State.requestStop_eqFlag : (s.requestStop).eqFlag = s.eqFlag := rfl
@[simp] theorem State.requestStop_zeroFlag : (s.requestStop).zeroFlag = s.zeroFlag := rfl
@[simp] theorem State.requestStop_ds : (s.requestStop).ds = s.ds := rfl
@[simp] theorem State.requestStop_cs : (s.requestStop).cs = s.cs := rfl
@[simp] theorem State.requestStop_rs : (s.requestStop).rs = s.rs := rfl
@[simp] theorem State.requestStop_fb : (s.requestStop).fb = s.fb := rfl
@[simp] theorem State.requestStop_run : (s.requestStop).run = s.run := rfl
@[simp] theorem State.requestStop_tLast : (s.requestStop).tLast = s.tLast := rfl
@[simp] theorem State.requestStop_diag : (s.requestStop).diag = s.diag := rfl
@[simp] theorem State.requestStop_framesSent : (s.requestStop).framesSent = s.framesSent := rfl
@[simp] theorem State.requestStop_chanOpen : (s.requestStop).chanOpen = s.chanOpen := rfl
@[simp] theorem State.requestStop_ctrl : (s.requestStop).ctrl = s.ctrl := rfl
@[simp] theorem State.requestStop_mbox : (s.requestStop).mbox = s.mbox := rfl
@[simp] theorem State.requestStop_stopReq : (s.requestStop).stopReq = true := rfl
@[simp] theorem State.requestStop_sched : (s.requestStop).sched = s.sched := rfl
@[simp] theorem State.requestStop_recurrence : (s.requestStop).recurrence = s.recurrence := rfl
@[simp] theorem State.requestStop_movesDrawn : (s.requestStop).movesDrawn = s.movesDrawn := rfl
@[simp] theorem State.requestStop_clock : (s.requestStop).clock = s.clock := rfl
@[simp] theorem State.requestStop_clockReads : (s.requestStop).clockReads = s.clockReads := rfl
@[simp] theorem State.requestStop_clockScript : (s.requestStop).clockScript = s.clockScript := rfl
@[simp] theorem State.requestStop_taken : (s.requestStop).taken = s.taken := rfl

/-! `advance` -/

@[simp] theorem State.advance_cfg : (s.advance).cfg = s.cfg := rfl
@[simp] theorem State.advance_x : (s.advance).x = s.x := rfl
@[simp] theorem State.advance_pc : (s.advance).pc = s.pc := rfl
@[simp] theorem State.advance_eqFlag : (s.advance).eqFlag = s.eqFlag := rfl
@[simp] theorem State.advance_zeroFlag : (s.advance).zeroFlag = s.zeroFlag := rfl
@[simp] theorem State.advance_ds : (s.advance).ds = s.ds := rfl
@[simp] theorem State.advance_cs : (s.advance).cs = s.cs := rfl
@[simp] theorem State.advance_rs : (s.advance).rs = s.rs := rfl
@[simp] theorem State.advance_fb : (s.advance).fb = s.fb := rfl
@[simp] theorem State.advance_run : (s.advance).run = s.run := rfl
@[simp] theorem State.advance_tLast : (s.advance).tLast = s.tLast := rfl
@[simp] theorem State.advance_diag : (s.advance).diag = s.diag := rfl
@[simp] theorem State.advance_framesSent : (s.advance).framesSent = s.framesSent := rfl
@[simp] theorem State.advance_chanOpen : (s.advance).chanOpen = s.chanOpen := rfl
@[simp] theorem State.advance_ctrl : (s.advance).ctrl = s.ctrl := rfl
@[simp] theorem State.advance_mbox : (s.advance).mbox = s.mbox := rfl
@[simp] theorem State.advance_stopReq : (s.advance).stopReq = s.stopReq := rfl
@[simp] theorem State.advance_sched : (s.advance).sched = s.schedAfter := rfl
@[simp] theorem State.advance_recurrence : (s.advance).recurrence = s.recurrence := rfl
@[simp] theorem State.advance_movesDrawn : (s.advance).movesDrawn = s.drawnAfter := rfl
@[simp] theorem State.advance_clock : (s.advance).clock = s.clock := rfl
@[simp] theorem State.advance_clockReads : (s.advance).clockReads = s.clockReads := rfl
@[simp] theorem State.advance_clockScript : (s.advance).clockScript = s.clockScript := rfl
@[simp] theorem State.advance_taken : (s.advance).taken = s.taken := rfl

/-! `setEqual` -/

@[simp] theorem State.setEqual_cfg (a b : Byte) : (s.setEqual a b).cfg = s.cfg := rfl
@[simp] theorem State.setEqual_x (a b : Byte) : (s.setEqual a b).x = s.x := rfl
@[simp] theorem State.setEqual_pc (a b : Byte) : (s.setEqual a b).pc = s.pc := rfl
@[simp] theorem State.setEqual_eqFlag (a b : Byte) : (s.setEqual a b).eqFlag = decide (a = b) := rfl
@[simp] theorem State.setEqual_zeroFlag (a b : Byte) : (s.setEqual a b).zeroFlag = s.zeroFlag := rfl
@[simp] theorem State.setEqual_ds (a b : Byte) : (s.setEqual a b).ds = s.ds := rfl
@[simp] theorem State.setEqual_cs (a b : Byte) : (s.setEqual a b).cs = s.cs := rfl
@[simp] theorem State.setEqual_rs (a b : Byte) : (s.setEqual a b).rs = s.rs := rfl
@[simp] theorem State.setEqual_fb (a b : Byte) : (s.setEqual a b).fb = s.fb := rfl
@[simp] theorem State.setEqual_run (a b : Byte) : (s.setEqual a b).run = s.run := rfl
@[simp] theorem State.setEqual_tLast (a b : Byte) : (s.setEqual a b).tLast = s.tLast := rfl
@[simp] theorem State.setEqual_diag (a b : Byte) : (s.setEqual a b).diag = s.diag := rfl
@[simp] theorem State.setEqual_framesSent (a b : Byte) : (s.setEqual a b).framesSent = s.framesSent := rfl
@[simp] theorem State.setEqual_chanOpen (a b : Byte) : (s.setEqual a b).chanOpen = s.chanOpen := rfl
@[simp] theorem State.setEqual_ctrl (a b : Byte) : (s.setEqual a b).ctrl = s.ctrl := rfl
@[simp] theorem State.setEqual_mbox (a b : Byte) : (s.setEqual a b).mbox = s.mbox := rfl
@[simp] theorem State.setEqual_stopReq (a b : Byte) : (s.setEqual a b).stopReq = s.stopReq := rfl
@[simp] theorem State.setEqual_sched (a b : Byte) : (s.setEqual a b).sched = s.sched := rfl
@[simp] theorem State.setEqual_recurrence (a b : Byte) : (s.setEqual a b).recurrence = s.recurrence := rfl
@[simp] theorem State.setEqual_movesDrawn (a b : Byte) : (s.setEqual a b).movesDrawn = s.movesDrawn := rfl
@[simp] theorem State.setEqual_clock (a b : Byte) : (s.setEqual a b).clock = s.clock := rfl
@[simp] theorem State.setEqual_clockReads (a b : Byte) : (s.setEqual a b).clockReads = s.clockReads := rfl
@[simp] theorem State.setEqual_clockScript (a b : Byte) : (s.setEqual a b).clockScript = s.clockScript := rfl
@[simp] theorem State.setEqual_taken (a b : Byte) : (s.setEqual a b).taken = s.taken := rfl

/-! `setZero` -/

@[simp] theorem State.setZero_cfg (v : Byte) : (s.setZero v).cfg = s.cfg := rfl
@[simp] theorem State.setZero_x (v : Byte) : (s.setZero v).x = s.x := rfl
@[simp] theorem State.setZero_pc (v : Byte) : (s.setZero v).pc = s.pc := rfl
@[simp] theorem State.setZero_eqFlag (v : Byte) : (s.setZero v).eqFlag = s.eqFlag := rfl
@[simp] theorem State.setZero_zeroFlag (v : Byte) : (s.setZero v).zeroFlag = decide (v = 0) := rfl
@[simp] theorem State.setZero_ds (v : Byte) : (s.setZero v).ds = s.ds := rfl
@[simp] theorem State.setZero_cs (v : Byte) : (s.setZero v).cs = s.cs := rfl
@[simp] theorem State.setZero_rs (v : Byte) : (s.setZero v).rs = s.rs := rfl
@[simp] theorem State.setZero_fb (v : Byte) : (s.setZero v).fb = s.fb := rfl
@[simp] theorem State.setZero_run (v : Byte) : (s.setZero v).run = s.run := rfl
@[simp] theorem State.setZero_tLast (v : Byte) : (s.setZero v).tLast = s.tLast := rfl
@[simp] theorem State.setZero_diag (v : Byte) : (s.setZero v).diag = s.diag := rfl
@[simp] theorem State.setZero_framesSent (v : Byte) : (s.setZero v).framesSent = s.framesSent := rfl
@[simp] theorem State.setZero_chanOpen (v : Byte) : (s.setZero v).chanOpen = s.chanOpen := rfl
@[simp] theorem State.setZero_ctrl (v : Byte) : (s.setZero v).ctrl = s.ctrl := rfl
@[simp] theorem State.setZero_mbox (v : Byte) : (s.setZero v).mbox = s.mbox := rfl
@[simp] theorem State.setZero_stopReq (v : Byte) : (s.setZero v).stopReq = s.stopReq := rfl
@[simp] theorem State.setZero_sched (v : Byte) : (s.setZero v).sched = s.sched := rfl
@[simp] theorem State.setZero_recurrence (v : Byte) : (s.setZero v).recurrence = s.recurrence := rfl
@[simp] theorem State.setZero_movesDrawn (v : Byte) : (s.setZero v).movesDrawn = s.movesDrawn := rfl
@[simp] theorem State.setZero_clock (v : Byte) : (s.setZero v).clock = s.clock := rfl
@[simp] theorem State.setZero_clockReads (v : Byte) : (s.setZero v).clockReads = s.clockReads := rfl
@[simp] theorem State.setZero_clockScript (v : Byte) : (s.setZero v).clockScript = s.clockScript := rfl
@[simp] theorem State.setZero_taken (v : Byte) : (s.setZero v).taken = s.taken := rfl

end Sys2Proof.Machine
end

