-- ==== Sys2Proof/Laws/Ops.lean ====
section
/-! SUPPORT. Once, what each shared operation can do. -/

namespace Sys2Proof.Machine

open Sys2Proof

/-- A clock answer is never before the one before it (60_exceptions.md R257). -/
theorem State.clock_le_clockAnswer (s : State) : s.clock ≤ s.clockAnswer := by
  unfold State.clockAnswer
  split <;> omega

theorem State.clockAnswer_of_script (s : State) (d : Nat) (ds : List Nat) (h : s.clockScript = d :: ds) :
    s.clockAnswer = s.clock + d := by
  simp [State.clockAnswer, h]

/-- A pixel inside the frame lies inside the buffer (49_graphics.md R221). -/
theorem pixelOffset_inside (c : Config) (xv yv : Nat) (hx : xv < c.width) (hy : yv < c.height) :
    pixelOffset c.width xv yv + 3 < c.fbSize := by
  unfold pixelOffset Config.fbSize
  have h : (yv + 1) * c.width ≤ c.height * c.width := Nat.mul_le_mul_right _ hy
  rw [Nat.succ_mul] at h
  rw [Nat.mul_comm c.width c.height]
  omega

/-- A pixel write raises `FrameBoundsError`, or replaces the pixel's four bytes. -/
theorem State.putPixel_cases (s : State) (xv yv v : Byte) :
    ((s.cfg.width ≤ xv.toNat ∨ s.cfg.height ≤ yv.toNat) ∧ s.putPixel xv yv v = s.terminate .frameBoundsError) ∨
      (xv.toNat < s.cfg.width ∧ yv.toNat < s.cfg.height ∧ s.putPixel xv yv v =
        { s with fb := s.fb.writePixel (pixelOffset s.cfg.width xv.toNat yv.toNat) (expand v) }) := by
  by_cases h : s.cfg.width ≤ xv.toNat ∨ s.cfg.height ≤ yv.toNat
  · exact .inl ⟨h, if_pos h⟩
  · exact .inr ⟨by omega, by omega, if_neg h⟩

/-- The frame buffer is canonical after every construction, and so at reset. -/
theorem State.construct_fb_wf (width height period t0 : Nat) : (State.construct width height period t0).fb.wf = true := rfl

theorem State.reset_fb_wf : State.reset.fb.wf = true := rfl

/-- A pixel write keeps the frame buffer canonical, raising or not. -/
theorem State.putPixel_fb_wf (s : State) (xv yv v : Byte) (h : s.fb.wf = true) : (s.putPixel xv yv v).fb.wf = true := by
  rcases s.putPixel_cases xv yv v with ⟨_, e⟩ | ⟨_, _, e⟩ <;> rw [e]
  · exact h
  · exact Memory.writePixel_wf _ _ _ h

/-- A conditional jump either sets `pc` to its target or changes nothing. -/
theorem State.jumpIf_eq (s : State) (c : Bool) (addr : Byte) :
    s.jumpIf c addr = { s with pc := if c then addr.toNat else s.pc } := by
  cases c <;> rfl

@[simp] theorem State.readReg_writeReg_same (s : State) (i : Fin 64) (v : Byte) : (s.writeReg i v).readReg i = v := by
  simp [State.readReg, State.writeReg]

theorem State.readReg_writeReg_other (s : State) (i j : Fin 64) (v : Byte) (h : j ≠ i) :
    (s.writeReg i v).readReg j = s.readReg j := by
  have : i.val ≠ j.val := fun e => h (Fin.ext e.symm)
  simp [State.readReg, State.writeReg, this]

/-- A button's bit in the latch, bit by bit. -/
theorem latchBit_getLsbD (k : Fin 8) (j : Nat) : (latchBit k).getLsbD j = decide (j = k.val) := by
  have h : ∀ k j : Fin 8, (latchBit k).getLsbD j = decide (j.val = k.val) := by decide
  by_cases hj : j < 8
  · exact h k ⟨j, hj⟩
  · rw [BitVec.getLsbD_of_ge _ _ (by omega)]
    have : j ≠ k.val := by omega
    simp [this]

end Sys2Proof.Machine
end

