-- ==== Sys2Proof/Laws/Exec.lean ====
section
/-! SUPPORT. Once, all that executing an instruction can do: claims over every instruction case on `Effect` instead of
unfolding the meanings. -/

namespace Sys2Proof.Machine

open Sys2Proof

/-- `Effect s i t`: instruction `i` takes `s` to `t`, with the conditions under which it does. -/
inductive Effect (s : State) : Instr → State → Prop where
  | badRegister (i : Instr) (h : i.regsInRange = false) : Effect s i (s.terminate .registerRangeError)
  | halt :
      Effect s (.halt) (s.terminate .halt)
  | illegal (op : Byte) :
      Effect s (.illegal op) (s.terminate .decodeError)
  | nop :
      Effect s (.nop) (s)
  | loadI (dst imm : Byte) (hdst : dst.toNat < 64) :
      Effect s (.loadI dst imm) (s.writeReg ⟨dst.toNat, hdst⟩ imm)
  | loadR (dst src : Byte) (hdst : dst.toNat < 64) (hsrc : src.toNat < 64) :
      Effect s (.loadR dst src) (s.writeReg ⟨dst.toNat, hdst⟩ (s.readReg ⟨src.toNat, hsrc⟩))
  | add (dst a b : Byte) (hdst : dst.toNat < 64) (ha : a.toNat < 64) (hb : b.toNat < 64) :
      Effect s (.add dst a b) (s.writeReg ⟨dst.toNat, hdst⟩ ((s.readReg ⟨a.toNat, ha⟩) + (s.readReg ⟨b.toNat, hb⟩)))
  | sub (dst a b : Byte) (hdst : dst.toNat < 64) (ha : a.toNat < 64) (hb : b.toNat < 64) :
      Effect s (.sub dst a b) (s.writeReg ⟨dst.toNat, hdst⟩ ((s.readReg ⟨a.toNat, ha⟩) - (s.readReg ⟨b.toNat, hb⟩)))
  | mul (dst a b : Byte) (hdst : dst.toNat < 64) (ha : a.toNat < 64) (hb : b.toNat < 64) :
      Effect s (.mul dst a b) (s.writeReg ⟨dst.toNat, hdst⟩ ((s.readReg ⟨a.toNat, ha⟩) * (s.readReg ⟨b.toNat, hb⟩)))
  | div (dst a b : Byte) (hdst : dst.toNat < 64) (ha : a.toNat < 64) (hb : b.toNat < 64)
      (hne : s.readReg ⟨b.toNat, hb⟩ ≠ 0) :
      Effect s (.div dst a b) (s.writeReg ⟨dst.toNat, hdst⟩ (BitVec.ofNat 8 ((s.readReg ⟨a.toNat, ha⟩).toNat / (s.readReg ⟨b.toNat, hb⟩).toNat)))
  | divZero (dst a b : Byte) (hdst : dst.toNat < 64) (ha : a.toNat < 64) (hb : b.toNat < 64)
      (hz : s.readReg ⟨b.toNat, hb⟩ = 0) :
      Effect s (.div dst a b) (s.terminate .arithmeticError)
  | and (dst a b : Byte) (hdst : dst.toNat < 64) (ha : a.toNat < 64) (hb : b.toNat < 64) :
      Effect s (.and dst a b) (s.writeLogic ⟨dst.toNat, hdst⟩ ((s.readReg ⟨a.toNat, ha⟩) &&& (s.readReg ⟨b.toNat, hb⟩)))
  | or (dst a b : Byte) (hdst : dst.toNat < 64) (ha : a.toNat < 64) (hb : b.toNat < 64) :
      Effect s (.or dst a b) (s.writeLogic ⟨dst.toNat, hdst⟩ ((s.readReg ⟨a.toNat, ha⟩) ||| (s.readReg ⟨b.toNat, hb⟩)))
  | xor (dst a b : Byte) (hdst : dst.toNat < 64) (ha : a.toNat < 64) (hb : b.toNat < 64) :
      Effect s (.xor dst a b) (s.writeLogic ⟨dst.toNat, hdst⟩ ((s.readReg ⟨a.toNat, ha⟩) ^^^ (s.readReg ⟨b.toNat, hb⟩)))
  | andI (dst src imm : Byte) (hdst : dst.toNat < 64) (hsrc : src.toNat < 64) :
      Effect s (.andI dst src imm) (s.writeLogic ⟨dst.toNat, hdst⟩ ((s.readReg ⟨src.toNat, hsrc⟩) &&& imm))
  | comp (a b : Byte) (ha : a.toNat < 64) (hb : b.toNat < 64) :
      Effect s (.comp a b) (s.setEqual (s.readReg ⟨a.toNat, ha⟩) (s.readReg ⟨b.toNat, hb⟩))
  | inc (r : Byte) (hr : r.toNat < 64) :
      Effect s (.inc r) (s.writeReg ⟨r.toNat, hr⟩ ((s.readReg ⟨r.toNat, hr⟩) + 1))
  | dec (r : Byte) (hr : r.toNat < 64) :
      Effect s (.dec r) (s.writeReg ⟨r.toNat, hr⟩ ((s.readReg ⟨r.toNat, hr⟩) - 1))
  | jump (addr : Byte) :
      Effect s (.jump addr) (s.setPc addr.toNat)
  | jeq (addr : Byte) :
      Effect s (.jeq addr) ({ s with pc := if s.eqFlag then addr.toNat else s.pc })
  | jneq (addr : Byte) :
      Effect s (.jneq addr) ({ s with pc := if !s.eqFlag then addr.toNat else s.pc })
  | jz (addr : Byte) :
      Effect s (.jz addr) ({ s with pc := if s.zeroFlag then addr.toNat else s.pc })
  | jnz (addr : Byte) :
      Effect s (.jnz addr) ({ s with pc := if !s.zeroFlag then addr.toNat else s.pc })
  | jumpDtWithin (addr : Byte) (h : s.clockAnswer - s.tLast < s.cfg.period) :
      Effect s (.jumpDt addr) (s.readClock.setPc addr.toNat)
  | jumpDtExpired (addr : Byte) (h : ¬ s.clockAnswer - s.tLast < s.cfg.period) :
      Effect s (.jumpDt addr) (s.readClock.setThrottle s.clockAnswer)
  | call (addr : Byte) :
      Effect s (.call addr) (s.enterCall addr.toNat)
  | ret (a : Nat) (h : s.rs = some a) :
      Effect s (.ret) (s.leaveCall a)
  | retEmpty (h : s.rs = none) :
      Effect s (.ret) (s.terminate .callStackError)
  | push (r : Byte) (hr : r.toNat < 64) :
      Effect s (.push r) (s.pushData (s.readReg ⟨r.toNat, hr⟩))
  | pop (r : Byte) (hr : r.toNat < 64) :
      Effect s (.pop r) (s.dropData.writeReg ⟨r.toNat, hr⟩ s.topData)
  | input (r : Byte) (hr : r.toNat < 64) :
      Effect s (.input r) (s.writeReg ⟨r.toNat, hr⟩ s.ctrl)
  | print (r : Byte) (hr : r.toNat < 64) :
      Effect s (.print r) (s.emit .dec (s.readReg ⟨r.toNat, hr⟩))
  | printB (r : Byte) (hr : r.toNat < 64) :
      Effect s (.printB r) (s.emit .bin (s.readReg ⟨r.toNat, hr⟩))
  | color (x y c : Byte) (hx : x.toNat < 64) (hy : y.toNat < 64) (hc : c.toNat < 64)
      (hw : (s.readReg ⟨x.toNat, hx⟩).toNat < s.cfg.width) (hh : (s.readReg ⟨y.toNat, hy⟩).toNat < s.cfg.height) :
      Effect s (.color x y c) ({ s with fb := s.fb.writePixel (pixelOffset s.cfg.width (s.readReg ⟨x.toNat, hx⟩).toNat (s.readReg ⟨y.toNat, hy⟩).toNat) (expand (s.readReg ⟨c.toNat, hc⟩)) })
  | colorOutside (x y c : Byte) (hx : x.toNat < 64) (hy : y.toNat < 64) (hc : c.toNat < 64)
      (ho : s.cfg.width ≤ (s.readReg ⟨x.toNat, hx⟩).toNat ∨ s.cfg.height ≤ (s.readReg ⟨y.toNat, hy⟩).toNat) :
      Effect s (.color x y c) (s.terminate .frameBoundsError)
  | colorI (x y imm : Byte) (hx : x.toNat < 64) (hy : y.toNat < 64)
      (hw : (s.readReg ⟨x.toNat, hx⟩).toNat < s.cfg.width) (hh : (s.readReg ⟨y.toNat, hy⟩).toNat < s.cfg.height) :
      Effect s (.colorI x y imm) ({ s with fb := s.fb.writePixel (pixelOffset s.cfg.width (s.readReg ⟨x.toNat, hx⟩).toNat (s.readReg ⟨y.toNat, hy⟩).toNat) (expand imm) })
  | colorIOutside (x y imm : Byte) (hx : x.toNat < 64) (hy : y.toNat < 64)
      (ho : s.cfg.width ≤ (s.readReg ⟨x.toNat, hx⟩).toNat ∨ s.cfg.height ≤ (s.readReg ⟨y.toNat, hy⟩).toNat) :
      Effect s (.colorI x y imm) (s.terminate .frameBoundsError)
  | draw :
      Effect s (.draw) (s.sendFrame)

/-- Every instruction answers a next state, and it is one of the effects. -/
theorem exec_effect (i : Instr) (s : State) : ∃ t, exec i s = .next t ∧ Effect s i t := by
  have bad1 : ∀ {i : Instr} {o : Byte}, i.regOperands = [o] → 64 ≤ o.toNat → i.regsInRange = false := by
    intro i o e h
    simp [Instr.regsInRange, e, h]
  have bad2 : ∀ {i : Instr} {o p : Byte}, i.regOperands = [o, p] → 64 ≤ o.toNat ∨ 64 ≤ p.toNat →
      i.regsInRange = false := by
    intro i o p e h
    rw [Instr.regsInRange, e]
    rcases h with h | h <;> simp [h]
  have bad3 : ∀ {i : Instr} {o p q : Byte}, i.regOperands = [o, p, q] → 64 ≤ o.toNat ∨ 64 ≤ p.toNat ∨ 64 ≤ q.toNat →
      i.regsInRange = false := by
    intro i o p q e h
    rw [Instr.regsInRange, e]
    rcases h with h | h | h <;> simp [h]
  cases i
  case halt =>
    exact ⟨_, rfl, .halt⟩
  case loadI dst imm =>
    rcases withReg_cases dst s _ with ⟨hdst, e⟩ | ⟨h, e⟩
    · exact ⟨_, congrArg Host.Outcome.next e, .loadI dst imm hdst⟩
    · exact ⟨_, congrArg Host.Outcome.next e, .badRegister _ (bad1 rfl h)⟩
  case add dst a b =>
    rcases withRegs3_cases dst a b s _ with ⟨hdst, ha, hb, e⟩ | ⟨h, e⟩
    · exact ⟨_, congrArg Host.Outcome.next e, .add dst a b hdst ha hb⟩
    · exact ⟨_, congrArg Host.Outcome.next e, .badRegister _ (bad3 rfl h)⟩
  case print r =>
    rcases withReg_cases r s _ with ⟨hr, e⟩ | ⟨h, e⟩
    · exact ⟨_, congrArg Host.Outcome.next e, .print r hr⟩
    · exact ⟨_, congrArg Host.Outcome.next e, .badRegister _ (bad1 rfl h)⟩
  case nop =>
    exact ⟨_, rfl, .nop⟩
  case jump addr =>
    exact ⟨_, rfl, .jump addr⟩
  case loadR dst src =>
    rcases withRegs2_cases dst src s _ with ⟨hdst, hsrc, e⟩ | ⟨h, e⟩
    · exact ⟨_, congrArg Host.Outcome.next e, .loadR dst src hdst hsrc⟩
    · exact ⟨_, congrArg Host.Outcome.next e, .badRegister _ (bad2 rfl h)⟩
  case jeq addr =>
    exact ⟨_, congrArg Host.Outcome.next (s.jumpIf_eq _ addr), .jeq addr⟩
  case comp a b =>
    rcases withRegs2_cases a b s _ with ⟨ha, hb, e⟩ | ⟨h, e⟩
    · exact ⟨_, congrArg Host.Outcome.next e, .comp a b ha hb⟩
    · exact ⟨_, congrArg Host.Outcome.next e, .badRegister _ (bad2 rfl h)⟩
  case jneq addr =>
    exact ⟨_, congrArg Host.Outcome.next (s.jumpIf_eq _ addr), .jneq addr⟩
  case color x y c =>
    rcases withRegs3_cases x y c s _ with ⟨hx, hy, hc, e⟩ | ⟨h, e⟩
    · rcases s.putPixel_cases (s.readReg ⟨x.toNat, hx⟩) (s.readReg ⟨y.toNat, hy⟩) (s.readReg ⟨c.toNat, hc⟩) with ⟨ho, e'⟩ | ⟨hw, hh, e'⟩
      · exact ⟨_, congrArg Host.Outcome.next (e.trans e'), .colorOutside x y c hx hy hc ho⟩
      · exact ⟨_, congrArg Host.Outcome.next (e.trans e'), .color x y c hx hy hc hw hh⟩
    · exact ⟨_, congrArg Host.Outcome.next e, .badRegister _ (bad3 rfl h)⟩
  case inc r =>
    rcases withReg_cases r s _ with ⟨hr, e⟩ | ⟨h, e⟩
    · exact ⟨_, congrArg Host.Outcome.next e, .inc r hr⟩
    · exact ⟨_, congrArg Host.Outcome.next e, .badRegister _ (bad1 rfl h)⟩
  case dec r =>
    rcases withReg_cases r s _ with ⟨hr, e⟩ | ⟨h, e⟩
    · exact ⟨_, congrArg Host.Outcome.next e, .dec r hr⟩
    · exact ⟨_, congrArg Host.Outcome.next e, .badRegister _ (bad1 rfl h)⟩
  case call addr =>
    exact ⟨_, rfl, .call addr⟩
  case ret =>
    cases h : s.rs with
    | none => exact ⟨_, by simp only [exec, execRet, h], .retEmpty h⟩
    | some a => exact ⟨_, by simp only [exec, execRet, h], .ret a h⟩
  case input r =>
    rcases withReg_cases r s _ with ⟨hr, e⟩ | ⟨h, e⟩
    · exact ⟨_, congrArg Host.Outcome.next e, .input r hr⟩
    · exact ⟨_, congrArg Host.Outcome.next e, .badRegister _ (bad1 rfl h)⟩
  case and dst a b =>
    rcases withRegs3_cases dst a b s _ with ⟨hdst, ha, hb, e⟩ | ⟨h, e⟩
    · exact ⟨_, congrArg Host.Outcome.next e, .and dst a b hdst ha hb⟩
    · exact ⟨_, congrArg Host.Outcome.next e, .badRegister _ (bad3 rfl h)⟩
  case xor dst a b =>
    rcases withRegs3_cases dst a b s _ with ⟨hdst, ha, hb, e⟩ | ⟨h, e⟩
    · exact ⟨_, congrArg Host.Outcome.next e, .xor dst a b hdst ha hb⟩
    · exact ⟨_, congrArg Host.Outcome.next e, .badRegister _ (bad3 rfl h)⟩
  case or dst a b =>
    rcases withRegs3_cases dst a b s _ with ⟨hdst, ha, hb, e⟩ | ⟨h, e⟩
    · exact ⟨_, congrArg Host.Outcome.next e, .or dst a b hdst ha hb⟩
    · exact ⟨_, congrArg Host.Outcome.next e, .badRegister _ (bad3 rfl h)⟩
  case sub dst a b =>
    rcases withRegs3_cases dst a b s _ with ⟨hdst, ha, hb, e⟩ | ⟨h, e⟩
    · exact ⟨_, congrArg Host.Outcome.next e, .sub dst a b hdst ha hb⟩
    · exact ⟨_, congrArg Host.Outcome.next e, .badRegister _ (bad3 rfl h)⟩
  case div dst a b =>
    rcases withRegs3_cases dst a b s _ with ⟨hd, ha, hb, e⟩ | ⟨h, e⟩
    · by_cases hz : s.readReg ⟨b.toNat, hb⟩ = 0
      · exact ⟨_, congrArg Host.Outcome.next (e.trans (if_pos hz)), .divZero dst a b hd ha hb hz⟩
      · exact ⟨_, congrArg Host.Outcome.next (e.trans (if_neg hz)), .div dst a b hd ha hb hz⟩
    · exact ⟨_, congrArg Host.Outcome.next e, .badRegister _ (bad3 rfl h)⟩
  case mul dst a b =>
    rcases withRegs3_cases dst a b s _ with ⟨hdst, ha, hb, e⟩ | ⟨h, e⟩
    · exact ⟨_, congrArg Host.Outcome.next e, .mul dst a b hdst ha hb⟩
    · exact ⟨_, congrArg Host.Outcome.next e, .badRegister _ (bad3 rfl h)⟩
  case jz addr =>
    exact ⟨_, congrArg Host.Outcome.next (s.jumpIf_eq _ addr), .jz addr⟩
  case jnz addr =>
    exact ⟨_, congrArg Host.Outcome.next (s.jumpIf_eq _ addr), .jnz addr⟩
  case printB r =>
    rcases withReg_cases r s _ with ⟨hr, e⟩ | ⟨h, e⟩
    · exact ⟨_, congrArg Host.Outcome.next e, .printB r hr⟩
    · exact ⟨_, congrArg Host.Outcome.next e, .badRegister _ (bad1 rfl h)⟩
  case andI dst src imm =>
    rcases withRegs2_cases dst src s _ with ⟨hdst, hsrc, e⟩ | ⟨h, e⟩
    · exact ⟨_, congrArg Host.Outcome.next e, .andI dst src imm hdst hsrc⟩
    · exact ⟨_, congrArg Host.Outcome.next e, .badRegister _ (bad2 rfl h)⟩
  case colorI x y imm =>
    rcases withRegs2_cases x y s _ with ⟨hx, hy, e⟩ | ⟨h, e⟩
    · rcases s.putPixel_cases (s.readReg ⟨x.toNat, hx⟩) (s.readReg ⟨y.toNat, hy⟩) imm with ⟨ho, e'⟩ | ⟨hw, hh, e'⟩
      · exact ⟨_, congrArg Host.Outcome.next (e.trans e'), .colorIOutside x y imm hx hy ho⟩
      · exact ⟨_, congrArg Host.Outcome.next (e.trans e'), .colorI x y imm hx hy hw hh⟩
    · exact ⟨_, congrArg Host.Outcome.next e, .badRegister _ (bad2 rfl h)⟩
  case draw =>
    exact ⟨_, rfl, .draw⟩
  case push r =>
    rcases withReg_cases r s _ with ⟨hr, e⟩ | ⟨h, e⟩
    · exact ⟨_, congrArg Host.Outcome.next e, .push r hr⟩
    · exact ⟨_, congrArg Host.Outcome.next e, .badRegister _ (bad1 rfl h)⟩
  case pop r =>
    rcases withReg_cases r s _ with ⟨hr, e⟩ | ⟨h, e⟩
    · exact ⟨_, congrArg Host.Outcome.next e, .pop r hr⟩
    · exact ⟨_, congrArg Host.Outcome.next e, .badRegister _ (bad1 rfl h)⟩
  case jumpDt addr =>
    by_cases h : s.clockAnswer - s.tLast < s.cfg.period
    · exact ⟨_, congrArg Host.Outcome.next (if_pos h), .jumpDtWithin addr h⟩
    · exact ⟨_, congrArg Host.Outcome.next (if_neg h), .jumpDtExpired addr h⟩
  case illegal op =>
    exact ⟨_, rfl, .illegal op⟩

/-- The inversion lemma of `exec`. -/
theorem exec_cases {i : Instr} {s t : State} (h : exec i s = .next t) : Effect s i t := by
  obtain ⟨u, hu, he⟩ := exec_effect i s
  rw [hu] at h
  injection h with h
  exact h ▸ he

end Sys2Proof.Machine
end

