-- ==== Sys2Proof/Laws/Fetch.lean ====
section
/-! SUPPORT. Once, what fetching can do: it moves `pc` over bytes of the program, or raises `ProgramBoundsError`. -/

namespace Sys2Proof.Machine

open Sys2Proof

/-- A byte fetch either yields the byte at `pc` and moves over it, or raises `ProgramBoundsError`. -/
theorem fetch8_cases (s : State) :
    (∃ h : s.pc < s.cfg.prog.length, fetch8 s = .got s.cfg.prog[s.pc] (s.setPc (s.pc + 1))) ∨
      (s.cfg.prog.length ≤ s.pc ∧ fetch8 s = .raised (s.terminate .programBoundsError)) := by
  by_cases h : s.pc < s.cfg.prog.length
  · exact .inl ⟨h, by simp [fetch8, h]⟩
  · exact .inr ⟨by omega, by simp [fetch8, Nat.le_of_not_lt h]⟩

@[simp] theorem State.setPc_setPc (s : State) (a b : Nat) : (s.setPc a).setPc b = s.setPc b := rfl

/-- Fetching `n` operands either yields the next `n` bytes, or consumes what is left and raises. -/
theorem fetchOperands_cases (n : Nat) (s : State) (h : s.pc ≤ s.cfg.prog.length) :
    (s.pc + n ≤ s.cfg.prog.length ∧
        fetchOperands n s = .got ((s.cfg.prog.drop s.pc).take n) (s.setPc (s.pc + n))) ∨
      (s.cfg.prog.length < s.pc + n ∧
        fetchOperands n s = .raised ((s.setPc s.cfg.prog.length).terminate .programBoundsError)) := by
  induction n generalizing s with
  | zero => exact .inl ⟨h, by simp [fetchOperands, State.setPc]⟩
  | succ n ih =>
    rcases fetch8_cases s with ⟨hlt, e⟩ | ⟨hge, e⟩
    · rcases ih (s.setPc (s.pc + 1)) hlt with ⟨hn, e'⟩ | ⟨hn, e'⟩
      · refine .inl ⟨by simp only [State.setPc_pc, State.setPc_cfg] at hn; omega, ?_⟩
        simp only [fetchOperands, e, e', State.setPc_setPc, State.setPc_pc, State.setPc_cfg]
        rw [List.drop_eq_getElem_cons hlt, List.take_succ_cons, Nat.add_assoc, Nat.add_comm 1 n]
      · refine .inr ⟨by simp only [State.setPc_pc, State.setPc_cfg] at hn; omega, ?_⟩
        simp only [fetchOperands, e, e', State.setPc_setPc, State.setPc_cfg]
    · have hpc : s.pc = s.cfg.prog.length := by omega
      refine .inr ⟨by omega, ?_⟩
      simp only [fetchOperands, e, ← hpc]
      rfl

/-- What the fetch and decode part of a step does, by the bytes at `pc`: it agrees with the decoder, moves `pc` past the
instruction, and raises `ProgramBoundsError` where the decoder refuses. -/
theorem fetchInstr_decode (s : State) :
    match decode (s.cfg.prog.drop s.pc) with
    | .ok i rest => fetchInstr s = .got i (s.setPc (s.cfg.prog.length - rest.length)) ∧
        s.pc + rest.length < s.cfg.prog.length
    | .refused .noOpcode => fetchInstr s = .raised (s.terminate .programBoundsError) ∧ s.cfg.prog.length ≤ s.pc
    | .refused .missingOperand =>
        fetchInstr s = .raised ((s.setPc s.cfg.prog.length).terminate .programBoundsError) ∧
          s.pc < s.cfg.prog.length := by
  rcases fetch8_cases s with ⟨hlt, e⟩ | ⟨hge, e⟩
  · rw [List.drop_eq_getElem_cons hlt]
    set op := s.cfg.prog[s.pc]
    have hle : (s.setPc (s.pc + 1)).pc ≤ (s.setPc (s.pc + 1)).cfg.prog.length := hlt
    rcases fetchOperands_cases (nops (decodeTag op)) _ hle with ⟨hn, e'⟩ | ⟨hn, e'⟩
    · simp only [State.setPc_pc, State.setPc_cfg] at hn e'
      have hlen : ¬ (s.cfg.prog.drop (s.pc + 1)).length < nops (decodeTag op) := by
        rw [List.length_drop]
        omega
      simp only [decode, if_neg hlen, fetchInstr, e, e', State.setPc_setPc, List.drop_drop]
      refine ⟨?_, by rw [List.length_drop]; omega⟩
      rw [List.length_drop, show s.cfg.prog.length - (s.cfg.prog.length - (s.pc + 1 + nops (decodeTag op))) =
        s.pc + 1 + nops (decodeTag op) by omega]
    · simp only [State.setPc_pc, State.setPc_cfg] at hn e'
      have hlen : (s.cfg.prog.drop (s.pc + 1)).length < nops (decodeTag op) := by
        rw [List.length_drop]
        omega
      simp only [decode, if_pos hlen, fetchInstr, e, e', State.setPc_setPc]
      exact ⟨trivial, hlt⟩
  · rw [List.drop_eq_nil_of_le hge]
    exact ⟨by simp only [fetchInstr, e], hge⟩

end Sys2Proof.Machine
end

