-- ==== Sys2Proof/Laws/HostPort.lean ====
section
/-! SUPPORT. Once, what the host's construction and load leave. -/

namespace Sys2Proof.Machine

open Sys2Proof

variable (s : State)

/-! `load` -/

@[simp] theorem State.load_ctrl (prog : List Byte) : (s.load prog).ctrl = s.ctrl := rfl
@[simp] theorem State.load_prog (prog : List Byte) : (s.load prog).cfg.prog = prog := rfl
@[simp] theorem State.load_pc (prog : List Byte) : (s.load prog).pc = s.pc := rfl
@[simp] theorem State.load_run (prog : List Byte) : (s.load prog).run = s.run := rfl

/-! `reconstruct` -/

@[simp] theorem State.reconstruct_ctrl (width height period : Nat) :
    (s.reconstruct width height period).ctrl = s.ctrl := rfl
@[simp] theorem State.reconstruct_clock (width height period : Nat) :
    (s.reconstruct width height period).clock = s.clockAnswer := rfl
@[simp] theorem State.reconstruct_tLast (width height period : Nat) :
    (s.reconstruct width height period).tLast = s.clockAnswer := rfl

/-- On a latch no button has touched, a further engine starts as the first one does, but for the record of the Clock. -/
theorem State.reconstruct_of_zero_latch (width height period : Nat) (h : s.ctrl = 0) :
    s.reconstruct width height period =
      { State.construct width height period s.clockAnswer with
        clockReads := s.clockReads + 1
        clockScript := s.clockScript.tail } := by
  simp [State.reconstruct, State.construct, h]

/-- The process's Clock does not go back over a construction (60_exceptions.md R257). -/
theorem State.clock_le_reconstruct_t0 (width height period : Nat) :
    s.clock ≤ (s.reconstruct width height period).cfg.t0 := s.clock_le_clockAnswer

end Sys2Proof.Machine
end

