-- ==== Sys2Proof/Laws/PerInstr.lean ====
section
/-! SUPPORT. Per-instruction facts about the encoding, one lemma for each constructor of `Instr`. -/

namespace Sys2Proof

/-- The bytes of an instruction are its opcode byte and as many operand bytes as its tag has, and the opcode byte of a
well-formed instruction decodes to its tag (30_encoding.md R90, R93, R95). -/
def Laws.Framing.Statement (i : Instr) : Prop :=
  (encode i).length = 1 + nops i.tag ∧ (i.wf = true → decodeTag (opcodeByte i) = i.tag)

theorem Laws.Framing.halt : Laws.Framing.Statement .halt := ⟨rfl, fun _ => rfl⟩

theorem Laws.Framing.loadI (dst imm : Byte) : Laws.Framing.Statement (.loadI dst imm) := ⟨rfl, fun _ => rfl⟩

theorem Laws.Framing.add (dst a b : Byte) : Laws.Framing.Statement (.add dst a b) := ⟨rfl, fun _ => rfl⟩

theorem Laws.Framing.print (r : Byte) : Laws.Framing.Statement (.print r) := ⟨rfl, fun _ => rfl⟩

theorem Laws.Framing.nop : Laws.Framing.Statement .nop := ⟨rfl, fun _ => rfl⟩

theorem Laws.Framing.jump (addr : Byte) : Laws.Framing.Statement (.jump addr) := ⟨rfl, fun _ => rfl⟩

theorem Laws.Framing.loadR (dst src : Byte) : Laws.Framing.Statement (.loadR dst src) := ⟨rfl, fun _ => rfl⟩

theorem Laws.Framing.jeq (addr : Byte) : Laws.Framing.Statement (.jeq addr) := ⟨rfl, fun _ => rfl⟩

theorem Laws.Framing.comp (a b : Byte) : Laws.Framing.Statement (.comp a b) := ⟨rfl, fun _ => rfl⟩

theorem Laws.Framing.jneq (addr : Byte) : Laws.Framing.Statement (.jneq addr) := ⟨rfl, fun _ => rfl⟩

theorem Laws.Framing.color (x y c : Byte) : Laws.Framing.Statement (.color x y c) := ⟨rfl, fun _ => rfl⟩

theorem Laws.Framing.inc (r : Byte) : Laws.Framing.Statement (.inc r) := ⟨rfl, fun _ => rfl⟩

theorem Laws.Framing.dec (r : Byte) : Laws.Framing.Statement (.dec r) := ⟨rfl, fun _ => rfl⟩

theorem Laws.Framing.call (addr : Byte) : Laws.Framing.Statement (.call addr) := ⟨rfl, fun _ => rfl⟩

theorem Laws.Framing.ret : Laws.Framing.Statement .ret := ⟨rfl, fun _ => rfl⟩

theorem Laws.Framing.input (r : Byte) : Laws.Framing.Statement (.input r) := ⟨rfl, fun _ => rfl⟩

theorem Laws.Framing.and (dst a b : Byte) : Laws.Framing.Statement (.and dst a b) := ⟨rfl, fun _ => rfl⟩

theorem Laws.Framing.xor (dst a b : Byte) : Laws.Framing.Statement (.xor dst a b) := ⟨rfl, fun _ => rfl⟩

theorem Laws.Framing.or (dst a b : Byte) : Laws.Framing.Statement (.or dst a b) := ⟨rfl, fun _ => rfl⟩

theorem Laws.Framing.sub (dst a b : Byte) : Laws.Framing.Statement (.sub dst a b) := ⟨rfl, fun _ => rfl⟩

theorem Laws.Framing.div (dst a b : Byte) : Laws.Framing.Statement (.div dst a b) := ⟨rfl, fun _ => rfl⟩

theorem Laws.Framing.mul (dst a b : Byte) : Laws.Framing.Statement (.mul dst a b) := ⟨rfl, fun _ => rfl⟩

theorem Laws.Framing.jz (addr : Byte) : Laws.Framing.Statement (.jz addr) := ⟨rfl, fun _ => rfl⟩

theorem Laws.Framing.jnz (addr : Byte) : Laws.Framing.Statement (.jnz addr) := ⟨rfl, fun _ => rfl⟩

theorem Laws.Framing.printB (r : Byte) : Laws.Framing.Statement (.printB r) := ⟨rfl, fun _ => rfl⟩

theorem Laws.Framing.andI (dst src imm : Byte) : Laws.Framing.Statement (.andI dst src imm) := ⟨rfl, fun _ => rfl⟩

theorem Laws.Framing.colorI (x y imm : Byte) : Laws.Framing.Statement (.colorI x y imm) := ⟨rfl, fun _ => rfl⟩

theorem Laws.Framing.draw : Laws.Framing.Statement .draw := ⟨rfl, fun _ => rfl⟩

theorem Laws.Framing.push (r : Byte) : Laws.Framing.Statement (.push r) := ⟨rfl, fun _ => rfl⟩

theorem Laws.Framing.pop (r : Byte) : Laws.Framing.Statement (.pop r) := ⟨rfl, fun _ => rfl⟩

theorem Laws.Framing.jumpDt (addr : Byte) : Laws.Framing.Statement (.jumpDt addr) := ⟨rfl, fun _ => rfl⟩

theorem Laws.Framing.illegal (op : Byte) : Laws.Framing.Statement (.illegal op) := by
  refine ⟨rfl, fun h => ?_⟩
  have h : 31 ≤ op.toNat := by simpa [Instr.wf] using h
  exact List.getD_eq_default _ _ h

end Sys2Proof
end

