-- ==== Sys2Proof/Laws/Step.lean ====
section
/-! SUPPORT. Once, what a step can do. -/

namespace Sys2Proof.Machine

open Sys2Proof

theorem engineStep_halted {s : State} {why : Reason} (h : s.run = .halted why) :
    engineStep s = .fault (.runEnded why) := by
  simp [engineStep, h]

theorem engineStep_stopped {s : State} (h : s.run = .running) (hs : s.stopReq = true) :
    engineStep s = .next (s.terminate .stopped) := by
  simp [engineStep, h, hs]

theorem engineStep_raised {s t : State} (h : s.run = .running) (hs : s.stopReq = false)
    (hf : fetchInstr s = .raised t) : engineStep s = .next t := by
  unfold engineStep
  rw [h]
  simp [hs, hf]

theorem engineStep_fetched {s t : State} {i : Instr} (h : s.run = .running) (hs : s.stopReq = false)
    (hf : fetchInstr s = .got i t) : engineStep s = exec i t := by
  unfold engineStep
  rw [h]
  simp [hs, hf]

/-- When the Engine is to move, the step is its step, with the move taken off the schedule. -/
theorem step_engine {s : State} (h : s.engineToMove) : step s = engineStep s.advance := by
  unfold step scheduledStep
  rw [show s.nextMove = .engine from h]
  rfl

/-- An engine step that answers a next state either accepted the stop request, or raised in the fetch, or executed the
fetched instruction. -/
theorem engineStep_cases {s t : State} (h : engineStep s = .next t) :
    s.run = .running ∧
      (s.stopReq = true ∧ t = s.terminate .stopped ∨
        s.stopReq = false ∧ fetchInstr s = .raised t ∨
        s.stopReq = false ∧ ∃ i u, fetchInstr s = .got i u ∧ exec i u = .next t) := by
  unfold engineStep at h
  split at h
  · cases h
  · rename_i hrun
    refine ⟨hrun, ?_⟩
    split at h
    · rename_i hstop
      exact .inl ⟨hstop, by injection h with h; exact h.symm⟩
    · rename_i hstop
      have hstop : s.stopReq = false := by simpa using hstop
      split at h
      · rename_i hf
        injection h with h
        exact .inr (.inl ⟨hstop, by rw [hf, h]⟩)
      · rename_i i u hf
        exact .inr (.inr ⟨hstop, i, u, hf, h⟩)

/-- A step is the Engine's, or one of the four moves of the other agents. -/
theorem step_cases {s t : State} (h : step s = .next t) :
    (s.nextMove = .engine ∧ engineStep s.advance = .next t) ∨
      (∃ k, s.nextMove = .press k ∧ t = s.advance.press k) ∨
      (∃ k, s.nextMove = .release k ∧ t = s.advance.release k) ∨
      (s.nextMove = .take ∧ t = s.advance.take) ∨ (s.nextMove = .stop ∧ t = s.advance.requestStop) := by
  unfold step scheduledStep moveStep at h
  split at h
  · exact .inl ⟨by assumption, h⟩
  · injection h with h
    exact .inr (.inl ⟨_, by assumption, h.symm⟩)
  · injection h with h
    exact .inr (.inr (.inl ⟨_, by assumption, h.symm⟩))
  · injection h with h
    exact .inr (.inr (.inr (.inl ⟨by assumption, h.symm⟩)))
  · injection h with h
    exact .inr (.inr (.inr (.inr ⟨by assumption, h.symm⟩)))

/-- A step of another agent than the Engine answers a next state and touches only what it shares with it. -/
theorem step_of_other {s : State} (h : s.nextMove ≠ .engine) :
    ∃ t, step s = .next t ∧ t = { s.advance with ctrl := t.ctrl, mbox := t.mbox, stopReq := t.stopReq, taken := t.taken } := by
  unfold step scheduledStep moveStep
  split
  · exact absurd (by assumption) h
  all_goals exact ⟨_, rfl, rfl⟩

/-! The schedule, case by case. -/

theorem State.nextMove_listed {s : State} {m : Move} {ms : List Move} (h : s.sched = m :: ms) : s.nextMove = m := by
  simp [State.nextMove, h]

theorem State.advance_listed {s : State} {m : Move} {ms : List Move} (h : s.sched = m :: ms) :
    s.advance = { s with sched := ms } := by
  simp [State.advance, State.schedAfter, State.drawnAfter, h]

theorem State.nextMove_cycle {s : State} {m : Move} {ms : List Move} (h : s.sched = [])
    (hr : s.recurrence = .cycle (m :: ms)) : s.nextMove = m := by
  simp [State.nextMove, h, hr]

theorem State.advance_cycle {s : State} {m : Move} {ms : List Move} (h : s.sched = [])
    (hr : s.recurrence = .cycle (m :: ms)) : s.advance = { s with sched := ms } := by
  simp [State.advance, State.schedAfter, State.drawnAfter, h, hr]

theorem State.nextMove_alone {s : State} (h : s.sched = []) (hr : s.recurrence = .cycle []) : s.nextMove = .engine := by
  simp [State.nextMove, h, hr]

theorem State.advance_alone {s : State} (h : s.sched = []) (hr : s.recurrence = .cycle []) : s.advance = s := by
  cases s
  simp_all [State.advance, State.schedAfter, State.drawnAfter]

theorem State.nextMove_free {s : State} (h : s.sched = []) (hr : s.recurrence = .free) :
    s.nextMove = Config.freeMove s.movesDrawn := by
  simp [State.nextMove, h, hr]

theorem State.advance_free {s : State} (h : s.sched = []) (hr : s.recurrence = .free) :
    s.advance = { s with movesDrawn := s.movesDrawn + 1 } := by
  cases s
  simp_all [State.advance, State.schedAfter, State.drawnAfter]

end Sys2Proof.Machine
end

