-- ==== Sys2Proof/Machine/Listing.lean ====
section
/-! DEFINITION. The listing notation of 30_encoding.md R108: the spec's own (D18, log 17), for printing programs. -/

namespace Sys2Proof.Machine

open Sys2Proof

/-- A register operand in a listing: `rN`, N decimal; 64 and above may be written. -/
def listReg (o : Byte) : String := "r" ++ toString o.toNat

/-- A literal operand in a listing: `#N`. -/
def listImm (o : Byte) : String := "#" ++ toString o.toNat

/-- A jump target in a listing: `@N`. -/
def listAddr (o : Byte) : String := "@" ++ toString o.toNat

/-- `Mnemonic operand, operand, operand` (30_encoding.md R108). -/
def listing : Instr → String
  | .halt => "Halt"
  | .loadI dst imm => "LoadI " ++ listReg dst ++ ", " ++ listImm imm
  | .add dst a b => "Add " ++ listReg dst ++ ", " ++ listReg a ++ ", " ++ listReg b
  | .print r => "Print " ++ listReg r
  | .nop => "Nop"
  | .jump addr => "Jump " ++ listAddr addr
  | .loadR dst src => "LoadR " ++ listReg dst ++ ", " ++ listReg src
  | .jeq addr => "Jeq " ++ listAddr addr
  | .comp a b => "Comp " ++ listReg a ++ ", " ++ listReg b
  | .jneq addr => "Jneq " ++ listAddr addr
  | .color x y c => "Color " ++ listReg x ++ ", " ++ listReg y ++ ", " ++ listReg c
  | .inc r => "Inc " ++ listReg r
  | .dec r => "Dec " ++ listReg r
  | .call addr => "Call " ++ listAddr addr
  | .ret => "Ret"
  | .input r => "Input " ++ listReg r
  | .and dst a b => "And " ++ listReg dst ++ ", " ++ listReg a ++ ", " ++ listReg b
  | .xor dst a b => "Xor " ++ listReg dst ++ ", " ++ listReg a ++ ", " ++ listReg b
  | .or dst a b => "Or " ++ listReg dst ++ ", " ++ listReg a ++ ", " ++ listReg b
  | .sub dst a b => "Sub " ++ listReg dst ++ ", " ++ listReg a ++ ", " ++ listReg b
  | .div dst a b => "Div " ++ listReg dst ++ ", " ++ listReg a ++ ", " ++ listReg b
  | .mul dst a b => "Mul " ++ listReg dst ++ ", " ++ listReg a ++ ", " ++ listReg b
  | .jz addr => "Jz " ++ listAddr addr
  | .jnz addr => "Jnz " ++ listAddr addr
  | .printB r => "PrintB " ++ listReg r
  | .andI dst src imm => "AndI " ++ listReg dst ++ ", " ++ listReg src ++ ", " ++ listImm imm
  | .colorI x y imm => "ColorI " ++ listReg x ++ ", " ++ listReg y ++ ", " ++ listImm imm
  | .draw => "Draw"
  | .push r => "Push " ++ listReg r
  | .pop r => "Pop " ++ listReg r
  | .jumpDt addr => "JumpDt " ++ listAddr addr
  | .illegal _ => "Illegal"

end Sys2Proof.Machine
end

