-- ==== Sys2Proof/Tests/Slice0.lean ====
section
/-! SUPPORT. Small tests. Expected values are those of spec/95_test_vectors.md (the row or example named in each comment)
or worked by hand from the rule named; the last part shows, for each obligation that has hypotheses, states that meet them. -/

namespace Sys2Proof.Tests

open Sys2Proof Sys2Proof.Machine

/-! ### Well-formedness -/

theorem test_wf_refuses_illegal_of_a_table_opcode : (Instr.illegal 30).wf = false ∧ (Instr.illegal 0).wf = false := by decide

theorem test_wf_accepts_every_other_shape :
    (Instr.illegal 31).wf = true ∧ (Instr.illegal 255).wf = true ∧ (Instr.add 255 64 0).wf = true := by decide

theorem test_regsInRange_refuses_64 :
    (Instr.add 0 63 64).regsInRange = false ∧ (Instr.loadI 64 0).regsInRange = false ∧
      (Instr.add 0 63 63).regsInRange = true ∧ (Instr.andI 4 3 64).regsInRange = true ∧
      (Instr.jump 255).regsInRange = true := by decide

/-! ### Decoding: every constructor, from bytes written out by 30_encoding.md R94, R97 -/

theorem test_decode_system :
    decode [0x00] = .ok .halt [] ∧ decode [0x04, 0x00] = .ok .nop [0x00] ∧ decode [0x1F, 0x01] = .ok (.illegal 0x1F) [0x01] := by
  decide

theorem test_decode_move :
    decode [0x01, 0x05, 0xFA] = .ok (.loadI 5 250) [] ∧ decode [0x06, 0x09, 0x02] = .ok (.loadR 9 2) [] := by decide

theorem test_decode_arithmetic :
    decode [0x02, 0x00, 0x01, 0x02] = .ok (.add 0 1 2) [] ∧ decode [0x13, 0x00, 0x01, 0x02] = .ok (.sub 0 1 2) [] ∧
      decode [0x15, 0x00, 0x01, 0x02] = .ok (.mul 0 1 2) [] ∧ decode [0x14, 0x00, 0x01, 0x02] = .ok (.div 0 1 2) [] ∧
      decode [0x0B, 0x07] = .ok (.inc 7) [] ∧ decode [0x0C, 0x64] = .ok (.dec 100) [] := by decide

theorem test_decode_logic :
    decode [0x10, 0x00, 0x01, 0x02] = .ok (.and 0 1 2) [] ∧ decode [0x11, 0x00, 0x01, 0x02] = .ok (.xor 0 1 2) [] ∧
      decode [0x12, 0x00, 0x01, 0x02] = .ok (.or 0 1 2) [] ∧ decode [0x19, 0x04, 0x03, 0x10] = .ok (.andI 4 3 16) [] ∧
      decode [0x08, 0x01, 0x02] = .ok (.comp 1 2) [] := by decide

theorem test_decode_branch :
    decode [0x05, 0x20] = .ok (.jump 32) [] ∧ decode [0x07, 0x20] = .ok (.jeq 32) [] ∧
      decode [0x09, 0x20] = .ok (.jneq 32) [] ∧ decode [0x16, 0x20] = .ok (.jz 32) [] ∧
      decode [0x17, 0x20] = .ok (.jnz 32) [] ∧ decode [0x1E, 0x17] = .ok (.jumpDt 23) [] := by decide

theorem test_decode_call_stack_io :
    decode [0x0D, 0x04] = .ok (.call 4) [] ∧ decode [0x0E] = .ok .ret [] ∧ decode [0x1C, 0x03] = .ok (.push 3) [] ∧
      decode [0x1D, 0x04] = .ok (.pop 4) [] ∧ decode [0x0F, 0x02] = .ok (.input 2) [] ∧
      decode [0x03, 0x01] = .ok (.print 1) [] ∧ decode [0x18, 0x01] = .ok (.printB 1) [] := by decide

theorem test_decode_graphics :
    decode [0x0A, 0x00, 0x01, 0x02] = .ok (.color 0 1 2) [] ∧ decode [0x1A, 0x00, 0x01, 0x1C] = .ok (.colorI 0 1 0x1C) [] ∧
      decode [0x1B] = .ok .draw [] := by decide

theorem test_decode_refuses_short_bytes :
    decode [] = .refused .noOpcode ∧ decode [0x14, 0x46, 0x01] = .refused .missingOperand ∧
      decode [0x1E] = .refused .missingOperand := by decide

/-- Table words: byte k of the instruction is bits 8k+7..8k. -/
theorem test_decodeTableWord :
    decodeTableWord 24 0xFA0501 = some (.loadI 5 250) ∧ decodeTableWord 32 0x02010013 = some (.sub 0 1 2) ∧
      decodeTableWord 8 0x0D = some (.call 0) ∧ decodeTableWord 8 0xFF = some (.illegal 0xFF) := by decide

/-- The rows of 30_encoding.md R108. -/
theorem test_listing :
    listing (.add 0 1 2) = "Add r0, r1, r2" ∧ listing (.loadI 5 250) = "LoadI r5, #250" ∧ listing (.jumpDt 23) = "JumpDt @23" := by
  decide

/-! ### Single steps -/

/-- A 160 by 144 machine, PERIOD 100, T0 0, with a program. -/
def machine (prog : List Byte) : State := (State.construct 160 144 100 0).load prog

/-- Set some registers. -/
def withRegisters (s : State) (l : List (Fin 64 × Byte)) : State := l.foldl (fun s p => s.writeReg p.1 p.2) s

/-- `r1 = a`, `r2 = b`, as in the tables of the spec. -/
def withAB (prog : List Byte) (a b : Byte) : State := withRegisters (machine prog) [(1, a), (2, b)]

/-- A view of the state after one step. -/
def after {α : Type} (s : State) (view : State → α) : Option α :=
  match step s with
  | .next t => some (view t)
  | .fault _ => none
  | .refused _ => none

/-- One pixel's four bytes. -/
def pixel (m : Memory) (a : Nat) : List Byte := [m.read a, m.read (a + 1), m.read (a + 2), m.read (a + 3)]

-- T-SYS-1
theorem test_halt : after (machine [0x00]) (fun t => (t.run, t.pc, t.chanOpen)) = some (.halted .halt, 1, false) := by decide

-- T-SYS-2
theorem test_nop : after (machine [0x04, 0x00]) (fun t => (t.run, t.pc, t.chanOpen)) = some (.running, 1, true) := by decide

-- T-SYS-4: the byte after is not fetched
theorem test_illegal : after (machine [0xFF, 0x00]) (fun t => (t.run, t.pc)) = some (.halted .decodeError, 1) := by decide

-- T-SYS-5, T-SYS-6
theorem test_fetch_bounds :
    after (machine [0x1E]) (fun t => (t.run, t.pc)) = some (.halted .programBoundsError, 1) ∧
      after (machine []) (fun t => (t.run, t.pc)) = some (.halted .programBoundsError, 0) := by decide

-- T-SYS-8, T-PRI-5
theorem test_stop_before_fetch :
    after { machine [0x0E] with stopReq := true } (fun t => (t.run, t.pc)) = some (.halted .stopped, 0) := by decide

-- T-MOV-1
theorem test_loadI : after (machine [0x01, 0x05, 0xFA]) (fun t => (t.readReg 5, t.pc)) = some (250, 3) := by decide

-- T-MOV-4
theorem test_loadI_register_64 :
    after (machine [0x01, 0x40, 0x01]) (fun t => (t.run, t.pc, t.readReg 0)) = some (.halted .registerRangeError, 3, 0) := by
  decide

-- T-MOV-5: destination first
theorem test_loadR :
    after (withAB [0x06, 0x09, 0x02] 1 7) (fun t => (t.readReg 9, t.readReg 2)) = some (7, 7) := by decide

-- T-MOV-7
theorem test_loadR_register_128 :
    after (machine [0x06, 0x00, 0x80]) (fun t => t.run) = some (.halted .registerRangeError) := by decide

-- S2
theorem test_add_wraps :
    after (withAB [0x02, 0x00, 0x01, 0x02] 250 10) (fun t => (t.readReg 0, t.zeroFlag, t.eqFlag)) = some (4, false, false) := by
  decide

-- "Same-register forms": Add r1, r1, r1 with 100
theorem test_add_same_register :
    after (withAB [0x02, 0x01, 0x01, 0x01] 100 0) (fun t => t.readReg 1) = some 200 := by decide

-- by hand from R141: 3 - 5 = 254 mod 256
theorem test_sub_wraps : after (withAB [0x13, 0x00, 0x01, 0x02] 3 5) (fun t => t.readReg 0) = some 254 := by decide

-- by hand from R142: 16 * 17 = 272 = 16 mod 256
theorem test_mul_wraps : after (withAB [0x15, 0x00, 0x01, 0x02] 16 17) (fun t => t.readReg 0) = some 16 := by decide

-- T-DIV-9: unsigned
theorem test_div_unsigned : after (withAB [0x14, 0x00, 0x01, 0x02] 200 3) (fun t => t.readReg 0) = some 66 := by decide

-- T-PRI-2 and T-PRI-3: the index check comes before the zero divisor
theorem test_div_fault_order :
    after (machine [0x14, 0x46, 0x01, 0x02]) (fun t => (t.run, t.pc)) = some (.halted .registerRangeError, 4) ∧
      after (machine [0x14, 0x00, 0x01, 0x02]) (fun t => (t.run, t.pc)) = some (.halted .arithmeticError, 4) := by decide

-- T-AND-1, T-AND-2
theorem test_and :
    after (withAB [0x10, 0x00, 0x01, 0x02] 0xF0 0x0F) (fun t => (t.readReg 0, t.zeroFlag)) = some (0, true) ∧
      after (withAB [0x10, 0x00, 0x01, 0x02] 0xFF 0x81) (fun t => (t.readReg 0, t.zeroFlag)) = some (0x81, false) := by decide

-- T-OR-1, T-OR-2
theorem test_or :
    after (withAB [0x12, 0x00, 0x01, 0x02] 0x0A 0x05) (fun t => (t.readReg 0, t.zeroFlag)) = some (0x0F, false) ∧
      after (withAB [0x12, 0x00, 0x01, 0x02] 0 0) (fun t => (t.readReg 0, t.zeroFlag)) = some (0, true) := by decide

-- T-XOR-1, T-XOR-2
theorem test_xor :
    after (withAB [0x11, 0x00, 0x01, 0x02] 0xFF 0x0F) (fun t => (t.readReg 0, t.zeroFlag)) = some (0xF0, false) ∧
      after (withAB [0x11, 0x00, 0x01, 0x02] 0x5A 0x5A) (fun t => (t.readReg 0, t.zeroFlag)) = some (0, true) := by decide

-- T-ANDI-1
theorem test_andI :
    after (withRegisters (machine [0x19, 0x04, 0x03, 0x10]) [(3, 0x12)]) (fun t => (t.readReg 4, t.zeroFlag)) =
      some (16, false) := by decide

-- T-ANDI-4: the literal 64 is no register
theorem test_andI_literal_64 : after (machine [0x19, 0x04, 0x03, 0x40]) (fun t => (t.run, t.zeroFlag)) = some (.running, true) := by
  decide

-- T-CMP-1, T-CMP-2
theorem test_comp :
    after (withAB [0x08, 0x01, 0x02] 4 4) (fun t => (t.eqFlag, t.zeroFlag)) = some (true, false) ∧
      after { withAB [0x08, 0x01, 0x02] 4 5 with eqFlag := true } (fun t => t.eqFlag) = some false := by decide

-- T-CMP-5
theorem test_comp_register_64 :
    after { machine [0x08, 0x01, 0x40] with eqFlag := true } (fun t => (t.run, t.eqFlag)) =
      some (.halted .registerRangeError, true) := by decide

-- T-INC-2
theorem test_inc_wraps :
    after (withRegisters (machine [0x0B, 0x07]) [(7, 255)]) (fun t => (t.readReg 7, t.zeroFlag)) = some (0, false) := by decide

-- T-DEC-2
theorem test_dec_wraps : after (machine [0x0C, 0x07]) (fun t => (t.readReg 7, t.zeroFlag)) = some (255, false) := by decide

-- T-JMP-3
theorem test_jump_past_the_end : after (machine [0x05, 0xFF]) (fun t => (t.pc, t.run)) = some (255, .running) := by decide

-- T-JRST and T-JEQ-1
theorem test_jeq :
    after (machine [0x07, 0x20]) (fun t => t.pc) = some 2 ∧
      after { machine [0x07, 0x20] with eqFlag := true } (fun t => t.pc) = some 32 := by decide

-- T-JRST and T-JNE-2
theorem test_jneq :
    after (machine [0x09, 0x20]) (fun t => t.pc) = some 32 ∧
      after { machine [0x09, 0x20] with eqFlag := true } (fun t => t.pc) = some 2 := by decide

-- T-JRST and T-JZ-1
theorem test_jz :
    after (machine [0x16, 0x20]) (fun t => t.pc) = some 2 ∧
      after { machine [0x16, 0x20] with zeroFlag := true } (fun t => t.pc) = some 32 := by decide

-- T-JRST and T-JNZ-2
theorem test_jnz :
    after (machine [0x17, 0x20]) (fun t => t.pc) = some 32 ∧
      after { machine [0x17, 0x20] with zeroFlag := true } (fun t => t.pc) = some 2 := by decide

-- T-JDT-2, T-JDT-3
theorem test_jumpDt_at_the_period :
    after { machine [0x1E, 0x20] with clockScript := [99] } (fun t => (t.pc, t.tLast)) = some (32, 0) ∧
      after { machine [0x1E, 0x20] with clockScript := [100] } (fun t => (t.pc, t.tLast)) = some (2, 100) := by decide

-- T-JDT-5 (set to the reading) and T-JDT-6
theorem test_jumpDt_reference :
    after { machine [0x1E, 0x20] with tLast := 500, clock := 500, clockScript := [500] } (fun t => (t.pc, t.tLast)) =
        some (2, 1000) ∧
      after { machine [0x1E, 0x20] with tLast := 100, clock := 100, clockScript := [50] } (fun t => (t.pc, t.tLast)) =
        some (32, 100) := by decide

-- T-CALL-2
theorem test_call :
    after { machine [0, 0, 0, 0, 0x0D, 0x08] with pc := 4, rs := some 2, cs := [none] } (fun t => (t.cs, t.rs, t.pc)) =
      some ([none, some 2], some 6, 8) := by decide

-- T-RET-1, T-RET-4
theorem test_ret :
    after { machine [0x0E] with rs := some 6, cs := [none, some 2] } (fun t => (t.pc, t.rs, t.cs)) = some (6, some 2, [none]) ∧
      after { machine [0x0E] with rs := some 9, cs := [] } (fun t => (t.pc, t.rs, t.cs)) = some (9, none, []) := by decide

-- T-RET-3
theorem test_ret_empty_slot :
    after (machine [0x0E]) (fun t => (t.run, t.pc, t.rs, t.cs)) = some (.halted .callStackError, 1, none, []) := by decide

-- T-PSH-1
theorem test_push :
    after { withRegisters (machine [0x1C, 0x03]) [(3, 9)] with ds := [1] } (fun t => (t.ds, t.readReg 3)) = some ([1, 9], 9) := by
  decide

-- T-POP-1, S7
theorem test_pop :
    after { machine [0x1D, 0x04] with ds := [1, 9] } (fun t => (t.readReg 4, t.ds)) = some (9, [1]) ∧
      after (withRegisters (machine [0x1D, 0x04]) [(4, 77)]) (fun t => (t.readReg 4, t.ds, t.run)) = some (0, [], .running) := by
  decide

-- T-POP-3
theorem test_pop_register_64 :
    after { machine [0x1D, 0x40] with ds := [5] } (fun t => (t.run, t.ds)) = some (.halted .registerRangeError, [5]) := by decide

-- T-IN-1
theorem test_input :
    after { machine [0x0F, 0x02] with ctrl := 5 } (fun t => (t.readReg 2, t.ctrl)) = some (5, 5) := by decide

-- T-PR-1
theorem test_print : after (withAB [0x03, 0x01] 250 0) (fun t => t.diag) = some [(.dec, 250)] := by decide

-- T-PR-2, appended after an earlier event
theorem test_printB :
    after { withAB [0x18, 0x01] 5 0 with diag := [(.dec, 7)] } (fun t => t.diag) = some [(.dec, 7), (.bin, 5)] := by decide

-- 2.10, table of expand
theorem test_expand :
    expand 0x92 = ⟨144, 144, 170, 255⟩ ∧ expand 0x08 = ⟨0, 72, 0, 255⟩ ∧ expand 0x20 = ⟨36, 0, 0, 255⟩ ∧
      expand 0x04 = ⟨0, 36, 0, 255⟩ ∧ expand 0x01 = ⟨0, 0, 85, 255⟩ := by decide

-- T-COL-1
theorem test_color :
    after (withRegisters (machine [0x0A, 0x00, 0x01, 0x02]) [(0, 2), (1, 1), (2, 0x1C)])
      (fun t => (pixel t.fb 648, t.fb.read 647, t.fb.read 652)) = some ([0, 252, 0, 255], 0, 0) := by decide

-- T-COL-5: the index check comes before the coordinate check
theorem test_color_register_99 :
    after (withRegisters (machine [0x0A, 0x00, 0x01, 0x63]) [(0, 200)]) (fun t => t.run) =
      some (.halted .registerRangeError) := by decide

-- T-COL-2
theorem test_colorI :
    after (withRegisters (machine [0x1A, 0x00, 0x01, 0xFF]) [(0, 159), (1, 143)]) (fun t => pixel t.fb 92156) =
      some [252, 252, 255, 255] := by decide

-- T-COL-3, T-COL-4
theorem test_colorI_outside :
    after (withRegisters (machine [0x1A, 0x00, 0x01, 0xFF]) [(0, 160)]) (fun t => (t.run, t.fb.cells)) =
        some (.halted .frameBoundsError, []) ∧
      after (withRegisters (machine [0x1A, 0x00, 0x01, 0xFF]) [(1, 144)]) (fun t => t.run) =
        some (.halted .frameBoundsError) := by decide

-- T-DRW-2: the pending frame is lost
theorem test_draw :
    after { machine [0x1B] with fb := ⟨[(3, 255)]⟩, mbox := some ⟨[]⟩ } (fun t => (t.mbox, t.framesSent, t.fb)) =
      some (some ⟨[(3, 255)]⟩, 1, ⟨[(3, 255)]⟩) := by decide

-- S9, T-COL-6: the frame as bytes, and the canonical form after a byte is set back to zero
theorem test_memory :
    ((Memory.mk []).writePixel 0 (expand 0xE3)).bytes 6 = [252, 0, 255, 255, 0, 0] ∧
      (((Memory.mk []).writePixel 4 (expand 0x1C)).writePixel 4 (expand 0)).cells = [(7, 255)] := by decide

-- T-IN-4: press of a pressed button, a second button, release of one that is up
theorem test_latch :
    ((((machine []).press 3).press 3).press 0).ctrl = 0x09 ∧
      (((((machine []).press 3).press 3).press 0).release 5).ctrl = 0x09 ∧ ((machine []).press 3).ctrl = 8 := by decide

-- T-DRW-3, T-DRW-4
theorem test_take :
    (after { machine [] with mbox := some ⟨[(3, 255)]⟩, sched := [.take] } fun t => (t.mbox, t.taken)) =
        some (none, [.frame ⟨[(3, 255)]⟩]) ∧
      (after { machine [] with sched := [.take] } fun t => t.taken) = some [.empty] ∧
      (after { machine [] with run := .halted .halt, chanOpen := false, sched := [.take] } fun t => t.taken) =
        some [.closed] := by decide

-- R262: no Engine step of an ended run
theorem test_step_of_an_ended_run :
    step { machine [] with run := .halted .halt, chanOpen := false } = .fault (.runEnded .halt) := rfl

-- the word of LoadI r5, #250, fetched and run as the first instruction after construction
theorem test_withFetchWord :
    after ((State.construct 160 144 100 0).withFetchWord 24 0xFA0501) (fun t => (t.readReg 5, t.pc)) = some (250, 3) := by
  decide

/-- Every opcode of the table, and one illegal byte, runs as the first instruction after reset, operands zero. -/
theorem test_reset_runs_every_opcode :
    (List.range 32).all (fun k =>
      match step (State.reset.withFetchWord 8 k) with
      | .next _ => true
      | .fault _ => false
      | .refused _ => false) = true := by decide

-- 60_exceptions.md R241, the table's columns "code" and "kind"
theorem test_reason_codes :
    ([Reason.halt, .decodeError, .programBoundsError, .registerRangeError, .frameBoundsError, .arithmeticError,
        .callStackError, .stopped].map fun r => (r.code, r.isFault)) =
      [(0, false), (1, true), (2, true), (3, true), (4, true), (5, true), (6, true), (7, false)] := by decide

theorem test_constructAtFrequency_zero : constructAtFrequency 160 144 0 0 = .refused .zeroFrequency := rfl

-- R293: the first engine's latch is 0; a second one on the latch of an ended run finds the button still down
theorem test_second_engine_keeps_latch :
    (State.construct 160 144 100 0).ctrl = 0 ∧
      (after { machine [0x00] with ctrl := 8, pc := 0, ds := [7], framesSent := 2 }
        fun t => ((t.reconstruct 3 2 50).ctrl, (t.reconstruct 3 2 50).run, (t.reconstruct 3 2 50).pc)) =
        some (8, .running, 0) ∧
      (after (({ machine [] with ctrl := 8, run := .halted .halt, clockScript := [40] }.reconstruct 3 2 50).load [0x0F, 0x02])
        fun t => (t.readReg 2, t.cfg.t0)) = some (8, 40) := by
  decide

-- R268: an endless alternation of a button and the Engine; by hand, three steps over two Nops
theorem test_cycle_of_moves :
    (match steps 3 ((machine [0x04, 0x04]).underSchedule [] (.cycle [.press 0, .engine])) with
      | .next t => some (t.ctrl, t.pc, t.sched)
      | .fault _ => none
      | .refused _ => none) = some (1, 1, [.engine]) := by decide

-- the next step after withFetchWord is the Engine's, whatever the schedule was
theorem test_withFetchWord_under_schedules :
    after (((machine []).underSchedule [] .free).withFetchWord 8 0x04) (fun t => t.pc) = some 1 ∧
      after (((machine []).underSchedule [] (.cycle [.take])).withFetchWord 8 0x04) (fun t => (t.pc, t.sched)) = some (1, []) ∧
      after (((machine []).underSchedule [.take] (.cycle [])).withFetchWord 8 0x04) (fun t => (t.pc, t.sched)) =
        some (1, [.take]) := by decide

/-! ### Witnesses: states and operands that meet the hypotheses of the obligations -/

/-- The largest register operand inside the file, the smallest and the largest outside it. -/
theorem witness_register_operand_bounds :
    (0 : Byte).toNat < 64 ∧ (63 : Byte).toNat < 64 ∧ 64 ≤ (64 : Byte).toNat ∧ 64 ≤ (255 : Byte).toNat := by decide

theorem witness_DecodeOfEncodeGivesInstruction : (Instr.illegal 31).wf = true ∧ (Instr.loadI 64 255).wf = true := by decide

theorem witness_EncodeOfDecodeGivesBytes :
    decode [0x02, 0x00, 0xFF, 0x02, 0x07] = .ok (.add 0 255 2) [0x07] ∧ decode [0x1F, 0x00] = .ok (.illegal 31) [0x00] := by
  decide

theorem witness_DecoderMapsEveryOpcodeByte : 31 ≤ (31 : Byte).toNat ∧ 31 ≤ (255 : Byte).toNat := by decide

theorem witness_OperandCountIsFixedByOpcode :
    [(1 : Byte), 2, 3].length = nops (decodeTag 0x02) ∧ ([] : List Byte).length = nops (decodeTag 0xFF) := by decide

/-- The Engine is to move on an empty schedule and on one that names it. -/
theorem witness_StepRunsDecodedInstruction :
    ((machine [0x04, 0x05]).engineReady ∧
      decode ((machine [0x04, 0x05]).cfg.prog.drop (machine [0x04, 0x05]).pc) = .ok .nop [0x05]) ∧
    ({ machine [0x04, 0x05, 0x09] with pc := 1, sched := [.engine, .stop] } : State).engineReady ∧
      decode ([0x04, 0x05, 0x09].drop 1) = .ok (.jump 9) [] :=
  ⟨⟨⟨rfl, rfl, rfl⟩, rfl⟩, ⟨rfl, rfl, rfl⟩, rfl⟩

/-- At the end of the program, and far past it. -/
theorem witness_FetchPastProgramEndRaises :
    ({ machine [0x04] with pc := 1 } : State).engineReady ∧ (machine [0x04]).cfg.prog.length ≤ 1 ∧
      ({ machine [0x04] with pc := 255 } : State).engineReady ∧ (machine [0x04]).cfg.prog.length ≤ 255 :=
  ⟨⟨rfl, rfl, rfl⟩, by decide, ⟨rfl, rfl, rfl⟩, by decide⟩

theorem witness_MissingOperandRaisesAtProgramEnd :
    (machine [0x14, 0x46, 0x01]).engineReady ∧
      (machine [0x14, 0x46, 0x01]).cfg.prog.drop (machine [0x14, 0x46, 0x01]).pc = 0x14 :: [0x46, 0x01] ∧
      [(0x46 : Byte), 0x01].length < nops (decodeTag 0x14) :=
  ⟨⟨rfl, rfl, rfl⟩, rfl, by decide⟩

theorem witness_RunStartsAtOffsetZero :
    decode [0x0D, 0x04] = .ok (.call 4) [] ∧ ((machine []).underSchedule [] (.cycle [.engine, .take])).engineToMove ∧
      ((machine [0x0D, 0x04]).underSchedule [.engine] .free).engineToMove := ⟨rfl, rfl, rfl⟩

theorem witness_StopRequestEndsRunBeforeFetch :
    ({ machine [0x00] with stopReq := true } : State).engineToMove ∧ (machine [0x00]).run = .running :=
  ⟨rfl, rfl⟩

/-- An ended run. -/
def ended (moves : List Move) : State :=
  { machine [] with run := .halted .programBoundsError, chanOpen := false, sched := moves }

theorem witness_StepStopsExactlyWhenRunEnded :
    ((ended []).engineToMove ∧ (ended []).run = .halted .programBoundsError) ∧
      ¬ (ended [.take]).engineToMove ∧ (machine []).run = .running := by
  refine ⟨⟨rfl, rfl⟩, ?_, rfl⟩
  simp [State.engineToMove, State.nextMove, ended]

theorem witness_HaltedIsAbsorbing :
    (ended [.press 7]).run = .halted .programBoundsError ∧ ∃ t, step (ended [.press 7]) = .next t ∧ t.ctrl = 0x80 :=
  ⟨rfl, _, rfl, by decide⟩

theorem witness_IllegalRaisesDecodeError : decode [0x1F, 0x04] = .ok (.illegal 31) [0x04] := by decide

/-- The least and the greatest divisor, and zero. -/
theorem witness_DivFloorsAndFaultsOnZero :
    (withAB [] 7 1).x[(2 : Byte).toNat] ≠ 0 ∧ (withAB [] 7 255).x[(2 : Byte).toNat] ≠ 0 ∧
      (withAB [] 7 0).x[(2 : Byte).toNat] = 0 := by decide

theorem witness_ConditionalJumpsFollowTheirFlag :
    ({ machine [] with eqFlag := true } : State).eqFlag = true ∧ (machine []).eqFlag = false ∧
      ({ machine [] with zeroFlag := true } : State).zeroFlag = true ∧ (machine []).zeroFlag = false := ⟨rfl, rfl, rfl, rfl⟩

/-- One tick before the period has passed, and on it. -/
theorem witness_JumpDtThrottlesByElapsedTime :
    ({ machine [] with clockScript := [99] } : State).clockAnswer - (machine []).tLast < (machine []).cfg.period ∧
      (machine []).cfg.period ≤ ({ machine [] with clockScript := [100] } : State).clockAnswer - (machine []).tLast := by
  decide

/-- An innermost call two deep, an outermost one, none, and the state of D17. -/
theorem witness_RetResumesAtReturnSlot :
    ([none, some 2] : List (Option Nat)) = [none] ++ [some 2] ∧ ([none] : List (Option Nat)) = [] ++ [none] ∧
      (machine []).rs = none ∧
      ({ machine [] with rs := some 9 } : State).rs = some 9 ∧ ({ machine [] with rs := some 9 } : State).cs = [] :=
  ⟨rfl, rfl, rfl, rfl, rfl⟩

theorem witness_PopTakesTopOrZero :
    ({ machine [] with ds := [1, 9] } : State).ds = [1] ++ [9] ∧ ({ machine [] with ds := [9] } : State).ds = [] ++ [9] ∧
      (machine []).ds = [] := ⟨rfl, rfl, rfl⟩

/-- The last pixel inside, and the first outside in each direction. -/
theorem witness_ColorWritesOnePixel :
    ((withAB [] 159 143).x[(1 : Byte).toNat].toNat < (machine []).cfg.width ∧
      (withAB [] 159 143).x[(2 : Byte).toNat].toNat < (machine []).cfg.height ∧ (withAB [] 159 143).fb.wf = true) ∧
    (machine []).cfg.width ≤ (withAB [] 160 0).x[(1 : Byte).toNat].toNat ∧
    (machine []).cfg.height ≤ (withAB [] 0 144).x[(2 : Byte).toNat].toNat := by decide

theorem witness_ColorIWritesOnePixel :
    ((withAB [] 0 0).x[(1 : Byte).toNat].toNat < (machine []).cfg.width ∧
      (withAB [] 0 0).x[(2 : Byte).toNat].toNat < (machine []).cfg.height ∧ (withAB [] 0 0).fb.wf = true) ∧
    (machine []).cfg.width ≤ (withAB [] 255 0).x[(1 : Byte).toNat].toNat ∧
    (machine []).cfg.height ≤ (withAB [] 0 255).x[(2 : Byte).toNat].toNat := by decide

theorem witness_PressAndReleaseSetAndClearLatchBit :
    ({ machine [] with sched := [.press 7] } : State).nextMove = .press 7 ∧
      ({ ended [] with recurrence := .cycle [.release 0, .engine] } : State).nextMove = .release 0 := ⟨rfl, rfl⟩

theorem witness_TakeDrainsMailboxOrReportsClosure :
    (ended [.take]).nextMove = .take ∧ (ended [.take]).mbox = none ∧ (ended [.take]).chanOpen = false ∧
      (machine []).mbox = none ∧ (machine []).chanOpen = true ∧
      ({ ended [.take] with mbox := some ⟨[(3, 255)]⟩ } : State).mbox = some ⟨[(3, 255)]⟩ := ⟨rfl, rfl, rfl, rfl, rfl, rfl⟩

theorem witness_HostStopSetsRequest :
    ({ machine [] with sched := [.stop] } : State).nextMove = .stop ∧
      ∃ t, step { machine [] with stopReq := true, sched := [.press 0] } = .next t := ⟨rfl, _, rfl⟩

/-- A state inside two calls, with a pixel drawn, a frame pending and a frame taken. -/
def busy : State :=
  { machine [0x0E, 0x1B, 0x0E] with
    pc := 1
    rs := some 3
    cs := [none, some 2]
    fb := ⟨[(3, 255)]⟩
    mbox := some ⟨[(3, 255), (92159, 255)]⟩
    taken := [.empty, .frame ⟨[(7, 255)]⟩]
    tLast := 10
    clock := 12 }

theorem busy_calls : CallsBalanced busy.rs busy.cs := by simp [CallsBalanced, busy]

theorem witness_StepKeepsInvariant : Inv busy ∧ ∃ t, step busy = .next t ∧ t.mbox = some busy.fb := by
  refine ⟨⟨⟨by decide, by decide⟩, ?_, ?_, busy_calls, ?_, by decide, by decide, by decide, by decide⟩, _, rfl, rfl⟩
  · intro f h
    cases h
    exact ⟨by decide, by decide⟩
  · intro f h
    simp only [busy, List.mem_cons, TakeResult.frame.injEq, reduceCtorEq, List.not_mem_nil, or_false, false_or] at h
    subst h
    exact ⟨by decide, by decide⟩
  · intro a h
    simp only [busy, List.mem_cons, Option.some.injEq, reduceCtorEq, List.not_mem_nil, or_false, false_or] at h
    rcases h with rfl | rfl <;> decide

theorem witness_CallStateRefinesReturnAddressStack :
    CallsBalanced busy.rs busy.cs ∧ busy.returnAddresses = [2] ++ [3] ∧ CallsBalanced (machine []).rs (machine []).cs ∧
      (machine []).returnAddresses = [] ∧ (∃ t, exec .ret busy = .next t ∧ t.pc = 3) ∧
      (∃ t, exec (.call 255) busy = .next t ∧ t.pc = 255) ∧ ∃ t, exec .ret (machine []) = .next t :=
  ⟨busy_calls, rfl, by simp [CallsBalanced, machine, State.load, State.construct], rfl, ⟨_, rfl, rfl⟩, ⟨_, rfl, rfl⟩, _, rfl⟩

theorem witness_RetUndoesCall :
    exec (.call 0) busy = .next (busy.enterCall 0) ∧
      ({ busy.enterCall 0 with ds := [1], pc := 77 } : State).rs = (busy.enterCall 0).rs ∧
      ({ busy.enterCall 0 with ds := [1], pc := 77 } : State).cs = (busy.enterCall 0).cs := ⟨rfl, rfl, rfl⟩

theorem witness_FlagsHaveOneKindOfWriterAndReader :
    (Instr.comp 0 63).tag = .comp ∧ (Instr.comp 0 63).regsInRange = true ∧ (∃ t, exec (.comp 0 63) busy = .next t) ∧
      (Instr.andI 63 0 255).regsInRange = true ∧ (∃ t, exec (.andI 63 0 255) busy = .next t) ∧
      ∃ t, exec (.jz 9) busy = .next t :=
  ⟨rfl, by decide, ⟨_, rfl⟩, by decide, ⟨_, rfl⟩, _, rfl⟩

theorem witness_OnlyOwningInstructionsWriteState :
    (∃ t, exec (.inc 63) busy = .next t ∧ t.readReg 63 = 1) ∧ (Instr.inc 63).regsInRange = true ∧
      (∃ t, exec (.pop 0) busy = .next t) ∧ ∃ t, exec .draw busy = .next t :=
  ⟨⟨_, rfl, by decide⟩, by decide, ⟨_, rfl⟩, _, rfl⟩

/-- Two states a program cannot tell apart, of which one has drawn, printed and been asked to stop. -/
theorem witness_UnobservableStateNeverInfluencesProgram :
    busy.programView = ({ busy with fb := ⟨[]⟩, mbox := none, diag := [(.dec, 1)], stopReq := true } : State).programView ∧
      (∃ t, exec .ret busy = .next t) ∧
      ∃ t, exec .ret { busy with fb := ⟨[]⟩, mbox := none, diag := [(.dec, 1)], stopReq := true } = .next t :=
  ⟨rfl, ⟨_, rfl⟩, _, rfl⟩

theorem witness_FaultsWriteOnlyRunAndChannel :
    busy.run = .running ∧ (∃ t, exec (.div 0 1 2) busy = .next t ∧ t.run = .halted .arithmeticError) ∧
      ∃ t, step (machine [0x0E]) = .next t ∧ t.run = .halted .callStackError :=
  ⟨rfl, ⟨_, rfl, by decide⟩, _, rfl, rfl⟩

theorem witness_EachInstructionRaisesOnlyItsFaults :
    (Instr.div 64 1 2).regsInRange = false ∧ (∃ t, exec (.div 64 1 2) busy = .next t) ∧
      (Instr.div 63 1 2).regsInRange = true ∧ ∃ t, exec (.div 63 1 2) busy = .next t ∧ t.run = .halted .arithmeticError :=
  ⟨by decide, ⟨_, rfl⟩, by decide, _, rfl, by decide⟩

theorem witness_ConfigurationNeverChanges : ∃ t, step busy = .next t ∧ t.cfg.prog = [0x0E, 0x1B, 0x0E] := ⟨_, rfl, rfl⟩

/-- The same two bytes written in both orders. -/
theorem witness_CanonicalMemoriesWithEqualReadsAreEqual :
    (((Memory.mk []).write 9 1).write 4 2).wf = true ∧ (((Memory.mk []).write 4 2).write 9 1).wf = true ∧
      ∀ a, (((Memory.mk []).write 9 1).write 4 2).read a = (((Memory.mk []).write 4 2).write 9 1).read a := by
  refine ⟨by decide, by decide, fun a => ?_⟩
  rw [show ((Memory.mk []).write 9 1).write 4 2 = ((Memory.mk []).write 4 2).write 9 1 by decide]

/-- A frame 300 wide and one 300 tall, with a pixel written in the step. -/
theorem witness_PixelsBeyondByteCoordinatesNeverChange :
    ((∃ t, step ((State.construct 300 1 100 0).load [0x1A, 0x00, 0x00, 0xFF]) = .next t ∧ t.fb.read 0 = 252) ∧
      256 < (State.construct 300 1 100 0).cfg.width ∧ 255 < 256) ∧
    ((∃ t, step ((State.construct 1 300 100 0).load [0x1A, 0x00, 0x00, 0xFF]) = .next t ∧ t.fb.read 0 = 252) ∧
      0 < (State.construct 1 300 100 0).cfg.width ∧ 255 < 299) ∧ (State.construct 300 1 100 0).fb.wf = true :=
  ⟨⟨⟨_, rfl, by decide⟩, by decide, by decide⟩, ⟨⟨_, rfl, by decide⟩, by decide, by decide⟩, rfl⟩

theorem witness_MailboxChangesOnlyByDrawOrTake :
    (∃ t, step busy = .next t ∧ t.mbox = some busy.fb) ∧ ∃ t, step { busy with sched := [.take] } = .next t ∧ t.mbox = none :=
  ⟨⟨_, rfl, rfl⟩, _, rfl, rfl⟩

theorem witness_OutputsOnlyGrow :
    (∃ t, step (machine [0x03, 0x00]) = .next t ∧ t.diag = [(.dec, 0)]) ∧
      ∃ t, step { busy with sched := [.take] } = .next t ∧ t.taken.length = 3 :=
  ⟨⟨_, rfl, by decide⟩, _, rfl, by decide⟩

theorem witness_ClockAndThrottleNeverRunBackwards :
    busy.tLast ≤ busy.clock ∧ ∃ t, step { machine [0x1E, 0x00] with clockScript := [100] } = .next t ∧ t.tLast = 100 :=
  ⟨by decide, _, rfl, by decide⟩

/-- A further construction after a run in which a button stayed down; the frequency refused and the least one not refused. -/
theorem witness_FurtherEngineKeepsLatch :
    (({ ended [] with ctrl := 0x81 } : State).reconstruct 1 1 0).ctrl = 0x81 ∧
      reconstructAtFrequency (ended []) 1 1 0 = .refused .zeroFrequency ∧
      ∃ t, reconstructAtFrequency { ended [] with ctrl := 0x81 } 1 1 1 = .next t ∧ t.ctrl = 0x81 :=
  ⟨rfl, rfl, _, rfl, rfl⟩

theorem witness_OtherAgentsCanMoveForEver :
    Move.engine ∉ ({ machine [0x00] with recurrence := .cycle [.press 3, .release 3] } : State).sched ∧
      ({ machine [0x00] with recurrence := .cycle [.press 3, .release 3] } : State).recurrence =
        .cycle [.press 3, .release 3] ∧
      [Move.press 3, .release 3] ≠ [] ∧ Move.engine ∉ [Move.press 3, .release 3] := by decide

end Sys2Proof.Tests
end

/-! SUPPORT. Proofs of the statements about the machine's state (10_state.md). First what executing an instruction leaves
unchanged, one lemma for each piece of state, and what a whole step can do; then the statements. -/

namespace Sys2Proof.Machine

open Sys2Proof

/-! ### The frame of an instruction: one lemma for each column of the access matrix (10_state.md R41)

Each names the effects of the instructions that own the piece of state; every other effect leaves it by definition. -/

section Frame

variable {s t : State} {i : Instr}

theorem Effect.keeps_cfg (h : Effect s i t) : t.cfg = s.cfg := by
  cases h <;> rfl

/-- What no instruction writes: the latch, the stop request, the schedule and the consumer's log. -/
theorem Effect.keeps_shared (h : Effect s i t) :
    t.ctrl = s.ctrl ∧ t.stopReq = s.stopReq ∧ t.sched = s.sched ∧ t.recurrence = s.recurrence ∧
      t.movesDrawn = s.movesDrawn ∧ t.taken = s.taken := by
  cases h <;> exact ⟨rfl, rfl, rfl, rfl, rfl, rfl⟩

theorem Effect.keeps_x (h : Effect s i t)
    (hi : i.tag ∉ [Tag.loadI, .loadR, .add, .sub, .mul, .div, .and, .or, .xor, .andI, .inc, .dec, .pop, .input]) :
    t.x = s.x := by
  cases h
  case loadI | loadR | add | sub | mul | div | and | or | xor | andI | inc | dec | pop | input =>
    simp [Instr.tag] at hi
  all_goals rfl

theorem Effect.keeps_pc (h : Effect s i t)
    (hi : i.tag ∉ [Tag.jump, .jeq, .jneq, .jz, .jnz, .jumpDt, .call, .ret]) : t.pc = s.pc := by
  cases h
  case jump | jeq | jneq | jz | jnz | jumpDtWithin | jumpDtExpired | call | ret => simp [Instr.tag] at hi
  all_goals rfl

theorem Effect.keeps_eqFlag (h : Effect s i t) (hi : i.tag ≠ .comp) : t.eqFlag = s.eqFlag := by
  cases h
  case comp => exact absurd rfl hi
  all_goals rfl

theorem Effect.keeps_zeroFlag (h : Effect s i t) (hi : i.tag ∉ [Tag.and, .or, .xor, .andI]) :
    t.zeroFlag = s.zeroFlag := by
  cases h
  case and | or | xor | andI => simp [Instr.tag] at hi
  all_goals rfl

theorem Effect.keeps_ds (h : Effect s i t) (hi : i.tag ∉ [Tag.push, .pop]) : t.ds = s.ds := by
  cases h
  case push | pop => simp [Instr.tag] at hi
  all_goals rfl

theorem Effect.keeps_calls (h : Effect s i t) (hi : i.tag ∉ [Tag.call, .ret]) : t.cs = s.cs ∧ t.rs = s.rs := by
  cases h
  case call | ret => simp [Instr.tag] at hi
  all_goals exact ⟨rfl, rfl⟩

theorem Effect.keeps_fb (h : Effect s i t) (hi : i.tag ∉ [Tag.color, .colorI]) : t.fb = s.fb := by
  cases h
  case color | colorI => simp [Instr.tag] at hi
  all_goals rfl

/-- The frame channel is written by `Draw` alone. -/
theorem Effect.keeps_sent_or_draw (h : Effect s i t) :
    (t.mbox = s.mbox ∧ t.framesSent = s.framesSent) ∨ (i = .draw ∧ t = s.sendFrame) := by
  cases h
  case draw => exact .inr ⟨rfl, rfl⟩
  all_goals exact .inl ⟨rfl, rfl⟩

theorem Effect.keeps_clock (h : Effect s i t) (hi : i.tag ≠ .jumpDt) :
    t.tLast = s.tLast ∧ t.clock = s.clock ∧ t.clockReads = s.clockReads ∧ t.clockScript = s.clockScript := by
  cases h
  case jumpDtWithin | jumpDtExpired => exact absurd rfl hi
  all_goals exact ⟨rfl, rfl, rfl, rfl⟩

/-- The diagnostic output is written by `Print` and `PrintB` alone, and they append one event (10_state.md R31). -/
theorem Effect.keeps_diag_or_prints (h : Effect s i t) :
    t.diag = s.diag ∨ i.tag ∈ [Tag.print, .printB] ∧ ∃ e, t.diag = s.diag ++ [e] := by
  cases h
  case print | printB => exact .inr ⟨by simp [Instr.tag], _, rfl⟩
  all_goals exact .inl rfl

/-- Beside the instructions that can end a run, only a register operand out of range does. -/
theorem Effect.keeps_run (h : Effect s i t) (hr : i.regsInRange = true)
    (hi : i.tag ∉ [Tag.halt, .illegal, .div, .ret, .color, .colorI]) :
    t.run = s.run ∧ t.chanOpen = s.chanOpen := by
  cases h
  case badRegister h => simp [h] at hr
  case halt | illegal | divZero | retEmpty | colorOutside | colorIOutside => simp [Instr.tag] at hi
  all_goals exact ⟨rfl, rfl⟩

end Frame

/-- Settles O47: the frame lemmas of the access matrix, column by column. -/
theorem onlyOwningInstructionsWriteState : Obligations.OnlyOwningInstructionsWriteState := by
  intro i s t h
  have he := exec_cases h
  refine ⟨he.keeps_x, he.keeps_pc, he.keeps_eqFlag, he.keeps_zeroFlag, he.keeps_ds, he.keeps_calls, he.keeps_fb,
    fun hi => ?_, he.keeps_clock, fun hi => ?_, he.keeps_run, he.keeps_cfg, he.keeps_shared⟩
  · rcases he.keeps_sent_or_draw with hkeep | ⟨rfl, -⟩
    · exact hkeep
    · exact absurd rfl hi
  · rcases he.keeps_diag_or_prints with hkeep | ⟨hprint, -⟩
    · exact hkeep
    · exact absurd hprint hi

/-! ### What a whole step can do -/

/-- `StepEffect s t`: how a step takes `s` to `t`, with the conditions under which it does. -/
inductive StepEffect (s : State) : State → Prop where
  /-- The Engine accepted a stop request (60_exceptions.md R246). -/
  | stopped (hmove : s.engineToMove) (hrun : s.run = .running) (hstop : s.stopReq = true) :
      StepEffect s (s.advance.terminate .stopped)
  /-- The Engine found no whole instruction at `pc`; `pc` is left past what there was (30_encoding.md R92). -/
  | fetchRaised (hready : s.engineReady) :
      StepEffect s ((s.advance.setPc (max s.pc s.cfg.prog.length)).terminate .programBoundsError)
  /-- The Engine executed the instruction at `pc`. -/
  | executed {t : State} (i : Instr) (rest : List Byte) (hready : s.engineReady)
      (hdecode : decode (s.cfg.prog.drop s.pc) = .ok i rest)
      (heffect : Effect (s.advance.setPc (s.cfg.prog.length - rest.length)) i t) : StepEffect s t
  | press (k : Fin 8) (hmove : s.nextMove = .press k) : StepEffect s (s.advance.press k)
  | release (k : Fin 8) (hmove : s.nextMove = .release k) : StepEffect s (s.advance.release k)
  | take (hmove : s.nextMove = .take) : StepEffect s s.advance.take
  | stop (hmove : s.nextMove = .stop) : StepEffect s s.advance.requestStop

/-- What the fetch of a ready Engine does, read off `fetchInstr_decode`. -/
theorem fetchInstr_advance_cases (s : State) :
    fetchInstr s.advance =
        .raised ((s.advance.setPc (max s.pc s.cfg.prog.length)).terminate .programBoundsError) ∨
      ∃ i rest, decode (s.cfg.prog.drop s.pc) = .ok i rest ∧
        fetchInstr s.advance = .got i (s.advance.setPc (s.cfg.prog.length - rest.length)) := by
  have hfetch := fetchInstr_decode s.advance
  simp only [State.advance_cfg, State.advance_pc] at hfetch
  cases hd : decode (s.cfg.prog.drop s.pc) with
  | ok i rest =>
    rw [hd] at hfetch
    exact .inr ⟨i, rest, rfl, hfetch.1⟩
  | refused why =>
    rw [hd] at hfetch
    cases why with
    | noOpcode =>
      obtain ⟨hraised, hpc⟩ := hfetch
      rw [max_eq_left hpc]
      exact .inl hraised
    | missingOperand =>
      obtain ⟨hraised, hpc⟩ := hfetch
      rw [max_eq_right hpc.le]
      exact .inl hraised

/-- The inversion lemma of `step`. -/
theorem step_effect {s t : State} (h : step s = .next t) : StepEffect s t := by
  rcases step_cases h with ⟨hmove, he⟩ | ⟨k, hmove, rfl⟩ | ⟨k, hmove, rfl⟩ | ⟨hmove, rfl⟩ | ⟨hmove, rfl⟩
  · rcases engineStep_cases he with ⟨hrun, ⟨hstop, rfl⟩ | ⟨hstop, hf⟩ | ⟨hstop, i, u, hf, hexec⟩⟩
    · exact .stopped hmove hrun hstop
    · rcases fetchInstr_advance_cases s with hraised | ⟨i, rest, -, hgot⟩
      · cases hraised.symm.trans hf
        exact .fetchRaised ⟨hmove, hrun, hstop⟩
      · cases hgot.symm.trans hf
    · rcases fetchInstr_advance_cases s with hraised | ⟨j, rest, hdecode, hgot⟩
      · cases hraised.symm.trans hf
      · cases hgot.symm.trans hf
        exact .executed i rest ⟨hmove, hrun, hstop⟩ hdecode (exec_cases hexec)
  · exact .press k hmove
  · exact .release k hmove
  · exact .take hmove
  · exact .stop hmove

theorem StepEffect.keeps_cfg {s t : State} (h : StepEffect s t) : t.cfg = s.cfg := by
  cases h
  case executed he => exact he.keeps_cfg
  all_goals rfl

/-! ### The call state as a stack of return addresses (10_state.md R26, R27) -/

section Calls

variable {s t : State} {i : Instr}

/-- Saving the slot and filling it anew keeps the call state balanced. -/
theorem CallsBalanced.enter {rs : Option Nat} {cs : List (Option Nat)} (h : CallsBalanced rs cs) (a : Nat) :
    CallsBalanced (some a) (cs ++ [rs]) := by
  obtain ⟨hempty, hbottom, habove⟩ := h
  refine ⟨by simp, ?_⟩
  cases cs with
  | nil => simpa using hempty
  | cons slot below =>
    have hrs : rs ≠ none := by simp [hempty]
    refine ⟨by simpa using hbottom, fun slot' hmem => ?_⟩
    rcases List.mem_append.mp hmem with hmem | hmem
    · exact habove slot' hmem
    · rwa [List.mem_singleton.mp hmem]

/-- Under a filled slot the call stack has a top element, and popping it into the slot keeps the call state balanced. -/
theorem CallsBalanced.leave {a : Nat} {cs : List (Option Nat)} (h : CallsBalanced (some a) cs) :
    ∃ below slot, cs = below ++ [slot] ∧ CallsBalanced slot below := by
  obtain ⟨hempty, hbottom, habove⟩ := h
  rcases List.eq_nil_or_concat' cs with rfl | ⟨below, slot, rfl⟩
  · simp at hempty
  · refine ⟨below, slot, rfl, ?_⟩
    cases below with
    | nil => exact ⟨by simpa using hbottom, by simp, by simp⟩
    | cons bottom rest =>
      have hslot : slot ≠ none := habove slot (by simp)
      exact ⟨by simp [hslot], by simpa using hbottom, fun slot' hmem => habove slot' (List.mem_append_left _ hmem)⟩

theorem State.leaveCall_of_cs {below : List (Option Nat)} {slot : Option Nat} (a : Nat) (h : s.cs = below ++ [slot]) :
    s.leaveCall a = { s with pc := a, rs := slot, cs := below } := by
  simp [State.leaveCall, h]

theorem State.enterCall_returnAddresses (target : Nat) :
    (s.enterCall target).returnAddresses = s.returnAddresses ++ [s.pc] := by
  simp [State.returnAddresses]

/-- The address in the slot is the top of the stack of return addresses, and `Ret` leaves what is below it. -/
theorem State.returnAddresses_of_slot {a : Nat} (hb : CallsBalanced s.rs s.cs) (h : s.rs = some a) :
    s.returnAddresses = (s.leaveCall a).returnAddresses ++ [a] := by
  obtain ⟨below, slot, hcs, -⟩ := CallsBalanced.leave (h ▸ hb)
  simp [State.leaveCall_of_cs a hcs, State.returnAddresses, hcs, h]

/-- An empty slot of a balanced call state means that there is no address to return to. -/
theorem State.returnAddresses_of_empty_slot (hb : CallsBalanced s.rs s.cs) (h : s.rs = none) :
    s.returnAddresses = [] := by
  simp [State.returnAddresses, h, hb.1.mp h]

/-- Every instruction keeps the call state balanced. -/
theorem Effect.keeps_callsBalanced (h : Effect s i t) (hb : CallsBalanced s.rs s.cs) : CallsBalanced t.rs t.cs := by
  cases h
  case call addr => exact hb.enter s.pc
  case ret a hrs =>
    obtain ⟨below, slot, hcs, hbelow⟩ := CallsBalanced.leave (hrs ▸ hb)
    rwa [State.leaveCall_of_cs a hcs]
  all_goals exact hb

theorem Instr.eq_call_of_tag (h : i.tag = .call) : ∃ addr, i = .call addr := by
  cases i
  case call addr => exact ⟨addr, rfl⟩
  all_goals cases h

theorem Instr.eq_ret_of_tag (h : i.tag = .ret) : i = .ret := by
  cases i
  case ret => rfl
  all_goals cases h

theorem Effect.eq_enterCall {addr : Byte} (h : Effect s (.call addr) t) : t = s.enterCall addr.toNat := by
  cases h
  case badRegister h => cases h
  case call => rfl

theorem Effect.ret_cases (h : Effect s .ret t) :
    (∃ a, s.rs = some a ∧ t = s.leaveCall a) ∨ s.rs = none ∧ t = s.terminate .callStackError := by
  cases h
  case badRegister h => cases h
  case ret a hrs => exact .inl ⟨a, hrs, rfl⟩
  case retEmpty hrs => exact .inr ⟨hrs, rfl⟩

/-- `Ret` with address `a` on top of the stack of return addresses resumes there and pops it. -/
theorem Effect.ret_pops {below : List Nat} {a : Nat} (h : Effect s .ret t) (hb : CallsBalanced s.rs s.cs)
    (htop : s.returnAddresses = below ++ [a]) : t.pc = a ∧ t.returnAddresses = below := by
  rcases h.ret_cases with ⟨slot, hrs, rfl⟩ | ⟨hrs, -⟩
  · rw [State.returnAddresses_of_slot hb hrs] at htop
    obtain ⟨hbelow, hslot⟩ := List.append_inj' htop rfl
    exact ⟨List.singleton_inj.mp hslot, hbelow⟩
  · simp [State.returnAddresses_of_empty_slot hb hrs] at htop

/-- `Ret` with no return address raises `CallStackError`. -/
theorem Effect.ret_raises (h : Effect s .ret t) (hb : CallsBalanced s.rs s.cs) (hnone : s.returnAddresses = []) :
    t = s.terminate .callStackError := by
  rcases h.ret_cases with ⟨slot, hrs, -⟩ | ⟨-, ht⟩
  · simp [State.returnAddresses_of_slot hb hrs] at hnone
  · exact ht

theorem Effect.keeps_returnAddresses (h : Effect s i t) (hi : i.tag ∉ [Tag.call, .ret]) :
    t.returnAddresses = s.returnAddresses := by
  obtain ⟨hcs, hrs⟩ := h.keeps_calls hi
  simp only [State.returnAddresses, hcs, hrs]

end Calls

/-- Settles O44: the call state is a stack of return addresses that `Call` pushes and `Ret` pops. -/
theorem callStateRefinesReturnAddressStack : Obligations.CallStateRefinesReturnAddressStack := by
  intro i s t hb h
  have he := exec_cases h
  refine ⟨he.keeps_callsBalanced hb, fun hi => ?_, fun hi below a htop => ?_, fun hi hnone => ?_, fun hcall hret => ?_⟩
  · obtain ⟨addr, rfl⟩ := Instr.eq_call_of_tag hi
    rw [he.eq_enterCall, State.enterCall_returnAddresses]
  · obtain rfl := Instr.eq_ret_of_tag hi
    exact he.ret_pops hb htop
  · obtain rfl := Instr.eq_ret_of_tag hi
    exact he.ret_raises hb hnone
  · exact he.keeps_returnAddresses (by simp [hcall, hret])

/-! ### The invariant of reachable states -/

section Invariant

variable {s t : State} {i : Instr}

/-- The pieces of state that `Inv` speaks of. -/
def State.invPart (s : State) : Config × Memory × Option Frame × List TakeResult × Option Nat × List (Option Nat) ×
    Nat × RunState × Bool × Nat × Nat :=
  (s.cfg, s.fb, s.mbox, s.taken, s.rs, s.cs, s.pc, s.run, s.chanOpen, s.tLast, s.clock)

/-- An update of other pieces of state keeps the invariant. -/
theorem Inv.of_invPart_eq (h : Inv s) (e : t.invPart = s.invPart) : Inv t := by
  cases s
  cases t
  simp only [State.invPart, Prod.mk.injEq] at e
  obtain ⟨rfl, rfl, rfl, rfl, rfl, rfl, rfl, rfl, rfl, rfl, rfl⟩ := e
  exact ⟨h.fbFits, h.mboxFits, h.takenFits, h.callsBalanced, h.savedInside, h.pcInside, h.channelOpen,
    h.throttleAfterT0, h.throttleBeforeClock⟩

/-- The end of a run closes the channel with it. -/
theorem Inv.terminate (h : Inv s) (why : Reason) : Inv (s.terminate why) where
  __ := h
  channelOpen := by simp

theorem Inv.setPc (h : Inv s) {a : Nat} (ha : a ≤ max s.cfg.prog.length 255) : Inv (s.setPc a) where
  __ := h
  pcInside := ha

/-- A target that an instruction names is one byte, so it is inside the bound of `pc` (10_state.md R23). -/
theorem Inv.setPc_byte (h : Inv s) (addr : Byte) : Inv (s.setPc addr.toNat) :=
  h.setPc (by have := addr.isLt; omega)

theorem Inv.readClock (h : Inv s) : Inv s.readClock where
  __ := h
  throttleBeforeClock := h.throttleBeforeClock.trans s.clock_le_clockAnswer

/-- The reference moves up to the latest clock answer. -/
theorem Inv.setThrottle_clock (h : Inv s) : Inv (s.setThrottle s.clock) where
  __ := h
  throttleAfterT0 := h.throttleAfterT0.trans h.throttleBeforeClock
  throttleBeforeClock := le_refl s.clock

theorem Inv.sendFrame (h : Inv s) : Inv s.sendFrame where
  __ := h
  mboxFits := fun f hf => by
    cases hf
    exact h.fbFits

/-- A pixel inside the frame is written inside the buffer. -/
theorem Inv.writePixel (h : Inv s) {xv yv : Nat} (hx : xv < s.cfg.width) (hy : yv < s.cfg.height) (c : Rgba) :
    Inv { s with fb := s.fb.writePixel (pixelOffset s.cfg.width xv yv) c } where
  __ := h
  fbFits :=
    ⟨Memory.writePixel_wf _ _ _ h.fbFits.1, Memory.writePixel_inside _ _ _ _ (pixelOffset_inside _ _ _ hx hy) h.fbFits.2⟩

/-- A call saves the `pc` past its operand, which is in the program or just past it. -/
theorem Inv.enterCall (h : Inv s) (hpc : s.pc ≤ s.cfg.prog.length) (addr : Byte) : Inv (s.enterCall addr.toNat) where
  __ := h
  callsBalanced := h.callsBalanced.enter s.pc
  savedInside := fun a ha => by
    simp only [State.enterCall_rs, State.enterCall_cs, List.mem_cons, List.mem_append, Option.some.injEq,
      List.not_mem_nil, or_false] at ha
    rcases ha with rfl | hcs | hrs
    · exact hpc
    · exact h.savedInside a (by simp [hcs])
    · exact h.savedInside a (by simp [hrs])
  pcInside := (h.setPc_byte addr).pcInside

theorem Inv.leaveCall (h : Inv s) {a : Nat} (hrs : s.rs = some a) : Inv (s.leaveCall a) := by
  obtain ⟨below, slot, hcs, hbelow⟩ := CallsBalanced.leave (hrs ▸ h.callsBalanced)
  have ha : a ≤ s.cfg.prog.length := h.savedInside a (by simp [hrs])
  rw [State.leaveCall_of_cs a hcs]
  exact {
    __ := h
    callsBalanced := hbelow
    savedInside := fun b hb => h.savedInside b (by simp only [List.mem_cons] at hb; simp [hcs]; tauto)
    pcInside := ha.trans (le_max_left _ _) }

theorem State.mbox_of_takeAnswer {f : Frame} (h : s.takeAnswer = .frame f) : s.mbox = some f := by
  unfold State.takeAnswer at h
  split at h
  case h_1 hmbox => rw [hmbox, TakeResult.frame.inj h]
  case h_2 => split at h <;> cases h

/-- The consumer's frame is the one that was pending. -/
theorem Inv.take (h : Inv s) : Inv s.take where
  __ := h
  mboxFits := by simp
  takenFits := fun f hf => by
    rcases List.mem_append.mp hf with hf | hf
    · exact h.takenFits f hf
    · exact h.mboxFits f (State.mbox_of_takeAnswer (List.mem_singleton.mp hf).symm)

/-- Executing an instruction that lies in the program keeps the invariant. -/
theorem Effect.keeps_inv (h : Effect s i t) (hinv : Inv s) (hpc : s.pc ≤ s.cfg.prog.length) : Inv t := by
  cases h
  case badRegister | halt | illegal | divZero | retEmpty | colorOutside | colorIOutside => exact hinv.terminate _
  case jump addr => exact hinv.setPc_byte addr
  case jeq addr | jneq addr | jz addr | jnz addr =>
    split
    · exact hinv.setPc_byte addr
    · exact hinv
  case jumpDtWithin addr _ => exact hinv.readClock.setPc_byte addr
  case jumpDtExpired => exact hinv.readClock.setThrottle_clock
  case call addr => exact hinv.enterCall hpc addr
  case ret a hrs => exact hinv.leaveCall hrs
  case color hw hh => exact hinv.writePixel hw hh _
  case colorI hw hh => exact hinv.writePixel hw hh _
  case draw => exact hinv.sendFrame
  all_goals exact hinv.of_invPart_eq rfl

theorem Inv.advance (h : Inv s) : Inv s.advance := h.of_invPart_eq rfl

end Invariant

/-- Settles O43: each step is one of `StepEffect`, and each operation it is made of keeps the invariant. -/
theorem stepKeepsInvariant : Obligations.StepKeepsInvariant := by
  intro s t h hstep
  cases step_effect hstep
  case stopped => exact h.advance.terminate _
  case fetchRaised =>
    have hpc : max s.pc s.cfg.prog.length ≤ max s.cfg.prog.length 255 := max_le h.pcInside (le_max_left _ _)
    exact (h.advance.setPc hpc).terminate _
  case executed i rest _ _ heffect =>
    have hpc : s.cfg.prog.length - rest.length ≤ s.cfg.prog.length := Nat.sub_le _ _
    exact heffect.keeps_inv (h.advance.setPc (hpc.trans (le_max_left _ _))) hpc
  case press | release | stop => exact h.of_invPart_eq rfl
  case take => exact h.advance.take

/-- Settles O42: everything the invariant bounds is empty or equal at reset. -/
theorem invariantHoldsAtReset : Obligations.InvariantHoldsAtReset := by
  have hload (width height period t0 : Nat) (prog : List Byte) :
      Inv ((State.construct width height period t0).load prog) := by
    constructor <;> simp [State.construct, State.load, Memory.fits, Memory.wf, Memory.inside, CallsBalanced]
  exact ⟨hload _ _ _ _ [], hload⟩

/-- Settles O51: no agent's move writes the configuration. -/
theorem configurationNeverChanges : Obligations.ConfigurationNeverChanges :=
  fun _ _ h => (step_effect h).keeps_cfg

/-- Settles O13: after the end no Engine step is enabled, and the other agents' moves write none of its state. -/
theorem haltedIsAbsorbing : Obligations.HaltedIsAbsorbing := by
  intro s t why hrun h
  have hended (hr : s.run = .running) : False := by cases hrun.symm.trans hr
  cases step_effect h
  case stopped hr _ => exact (hended hr).elim
  case fetchRaised hready =>
    obtain ⟨-, hr, -⟩ := hready
    exact (hended hr).elim
  case executed hready _ _ =>
    obtain ⟨-, hr, -⟩ := hready
    exact (hended hr).elim
  all_goals exact ⟨hrun, rfl⟩

/-- Settles O54: of the Engine's steps only `Draw` writes the mailbox, of the other agents' only the take. -/
theorem mailboxChangesOnlyByDrawOrTake : Obligations.MailboxChangesOnlyByDrawOrTake := by
  intro s t h
  cases step_effect h
  case executed i rest hready hdecode heffect =>
    rcases heffect.keeps_sent_or_draw with ⟨hmbox, -⟩ | ⟨rfl, rfl⟩
    · exact .inl hmbox
    · exact .inr (.inr ⟨⟨rest, hdecode⟩, hready, rfl, rfl⟩)
  case take hmove => exact .inr (.inl ⟨hmove, rfl⟩)
  all_goals exact .inl rfl

/-- Settles O55: an instruction appends at most one diagnostic event, a take one answer, and no step does both. -/
theorem outputsOnlyGrow : Obligations.OutputsOnlyGrow := by
  intro s t h
  cases step_effect h
  case executed heffect =>
    obtain ⟨-, -, -, -, -, htaken⟩ := heffect.keeps_shared
    rcases heffect.keeps_diag_or_prints with hdiag | ⟨-, hdiag⟩
    · exact ⟨.inl hdiag, .inl htaken⟩
    · exact ⟨.inr hdiag, .inl htaken⟩
  case take => exact ⟨.inl rfl, .inr ⟨_, rfl⟩⟩
  all_goals exact ⟨.inl rfl, .inl rfl⟩

/-- Settles O8: the bytes from `pc` on are none, so the fetch raises with `pc` where it is. -/
theorem fetchPastProgramEndRaises : Obligations.FetchPastProgramEndRaises := by
  rintro s ⟨hmove, hrun, hstop⟩ hpc
  rcases fetch8_cases s.advance with ⟨hlt, -⟩ | ⟨-, hraised⟩
  · exact absurd hlt (Nat.not_lt.mpr hpc)
  · have hfetch : fetchInstr s.advance = .raised (s.advance.terminate .programBoundsError) := by
      simp only [fetchInstr, hraised]
    exact (step_engine hmove).trans (engineStep_raised hrun hstop hfetch)

/-! ### The canonical form of a memory (10_state.md R28) -/

/-- The cells of a canonical list are the bytes it reads, less the blank ones. -/
theorem mem_iff_readCells {cs : List Host.Cell} (h : CellsWf cs) (c : Host.Cell) :
    c ∈ cs ↔ c.2 ≠ Memory.blank ∧ readCells cs c.1 = c.2 := by
  obtain ⟨hrising, hblank⟩ := h
  induction cs with
  | nil => simp [readCells, eq_comm]
  | cons d rest ih =>
    obtain ⟨hbelow, hrest⟩ := List.pairwise_cons.mp hrising
    have ih := ih hrest fun e he => hblank e (List.mem_cons_of_mem _ he)
    by_cases hd : d.1 = c.1
    · have hnot : c ∉ rest := fun hmem => (hbelow c hmem).ne hd
      have hdblank := hblank d List.mem_cons_self
      simp only [readCells, if_pos hd, List.mem_cons, hnot, or_false]
      constructor
      · rintro rfl
        exact ⟨hdblank, rfl⟩
      · rintro ⟨-, hbyte⟩
        exact Prod.ext hd.symm hbyte.symm
    · have hne : c ≠ d := fun e => hd (congrArg Prod.fst e.symm)
      simp [readCells, hd, hne, ih]

/-- Settles O52: two rising lists of the same cells are the same list. -/
theorem canonicalMemoriesWithEqualReadsAreEqual : Obligations.CanonicalMemoriesWithEqualReadsAreEqual := by
  intro m n hm hn hread
  rw [Memory.wf_iff] at hm hn
  have hmem (c : Host.Cell) : c ∈ m.cells ↔ c ∈ n.cells := by
    rw [mem_iff_readCells hm, mem_iff_readCells hn]
    exact and_congr_right fun _ => by rw [show readCells m.cells c.1 = readCells n.cells c.1 from hread c.1]
  have hirrefl : Std.Irrefl fun c d : Host.Cell => c.1 < d.1 := ⟨fun c => lt_irrefl c.1⟩
  have hantisymm : Std.Antisymm fun c d : Host.Cell => c.1 < d.1 := ⟨fun _ _ h h' => absurd h' h.asymm⟩
  exact congrArg Memory.mk (hm.1.eq_of_mem_iff hn.1 hmem)

/-- Settles O41: the two branches of the port. -/
theorem constructRefusesZeroFrequency : Obligations.ConstructRefusesZeroFrequency :=
  fun _ _ _ _ => ⟨fun hf => if_pos hf, fun hf => if_neg hf⟩

/-- Settles O57: the reset values, read off the construction; an empty frame buffer reads 0 everywhere. -/
theorem resetLeavesStatedValues : Obligations.ResetLeavesStatedValues :=
  fun _ _ _ _ => ⟨rfl, rfl, rfl, rfl, fun _ => rfl, rfl, rfl, rfl, rfl⟩

/-! ### Two runs of one instruction -/

section TwoRuns

/-- Both outcomes are next states, and `R` relates them. -/
def BothNext (R : State → State → Prop) (r r' : Result) : Prop :=
  ∃ t t', r = .next t ∧ r' = .next t' ∧ R t t'

variable {R : State → State → Prop} {s s' t t' : State}

theorem BothNext.intro (h : R t t') : BothNext R (.next t) (.next t') := ⟨t, t', rfl, rfl, h⟩

theorem BothNext.rel_of_next {r r' : Result} (h : BothNext R r r') (ht : r = .next t) (ht' : r' = .next t') :
    R t t' := by
  obtain ⟨u, u', hu, hu', hR⟩ := h
  cases hu.symm.trans ht
  cases hu'.symm.trans ht'
  exact hR

/-- An operand byte validates alike in two runs, so they stay related if each way on keeps them so. -/
theorem withReg_rel (o : Byte) {f f' : Fin 64 → State}
    (hbad : R (s.terminate .registerRangeError) (s'.terminate .registerRangeError))
    (hgood : ∀ i, R (f i) (f' i)) : R (withReg o s f) (withReg o s' f') := by
  unfold withReg
  cases regIndex o with
  | none => exact hbad
  | some i => exact hgood i

theorem withRegs2_rel (o p : Byte) {f f' : Fin 64 → Fin 64 → State}
    (hbad : R (s.terminate .registerRangeError) (s'.terminate .registerRangeError))
    (hgood : ∀ i j, R (f i j) (f' i j)) : R (withRegs2 o p s f) (withRegs2 o p s' f') :=
  withReg_rel o hbad fun i => withReg_rel p hbad (hgood i)

theorem withRegs3_rel (o p q : Byte) {f f' : Fin 64 → Fin 64 → Fin 64 → State}
    (hbad : R (s.terminate .registerRangeError) (s'.terminate .registerRangeError))
    (hgood : ∀ i j k, R (f i j k) (f' i j k)) : R (withRegs3 o p q s f) (withRegs3 o p q s' f') :=
  withReg_rel o hbad fun i => withRegs2_rel p q hbad (hgood i)

/-- Two runs that decide one condition alike stay related if both branches keep them so. -/
theorem ite_rel {c : Prop} [Decidable c] (ht : R s s') (hf : R t t') :
    R (if c then s else t) (if c then s' else t') := by
  by_cases h : c
  · rwa [if_pos h, if_pos h]
  · rwa [if_neg h, if_neg h]

theorem execRet_rel (hrs : s'.rs = s.rs) (hempty : R (s.terminate .callStackError) (s'.terminate .callStackError))
    (hleave : ∀ a, R (s.leaveCall a) (s'.leaveCall a)) : BothNext R (execRet s) (execRet s') := by
  unfold execRet
  rw [hrs]
  cases s.rs with
  | none => exact .intro hempty
  | some a => exact .intro (hleave a)

end TwoRuns

/-! ### The unobservable state (10_state.md R42) -/

/-- `s` with the state that no program observes taken from `u`. -/
def State.withUnobserved (s u : State) : State :=
  { s with
    fb := u.fb, mbox := u.mbox, diag := u.diag, framesSent := u.framesSent, chanOpen := u.chanOpen
    stopReq := u.stopReq, sched := u.sched, recurrence := u.recurrence, movesDrawn := u.movesDrawn, taken := u.taken }

/-- States with one view differ at most in their unobservable state. -/
theorem State.eq_withUnobserved_of_programView {s s' : State} (h : s.programView = s'.programView) :
    s' = s.withUnobserved s' := by
  cases s
  cases s'
  simp only [State.programView, ProgramView.mk.injEq] at h
  obtain ⟨rfl, rfl, rfl, rfl, rfl, rfl, rfl, rfl, rfl, rfl, rfl, rfl, rfl, rfl⟩ := h
  rfl

/-- A program cannot tell the two states apart. -/
def SameView (s s' : State) : Prop := s.programView = s'.programView

/-- A pixel write shows a program only whether it raised, and the coordinates and dimensions alone decide that. -/
theorem State.putPixel_sameView (s u : State) (xv yv v : Byte) :
    SameView (s.putPixel xv yv v) ((s.withUnobserved u).putPixel xv yv v) :=
  ite_rel rfl rfl

/-- Whatever the unobservable state is, an instruction does the same to the view: of what it reads, the operands, the
conditions of the jumps and the slot are all in the view. -/
theorem exec_sameView (i : Instr) (s u : State) : BothNext SameView (exec i s) (exec i (s.withUnobserved u)) := by
  cases i
  case halt | illegal | nop | jump | call | draw => exact .intro rfl
  case jeq | jneq | jz | jnz | jumpDt => exact .intro (ite_rel rfl rfl)
  case ret => exact execRet_rel rfl rfl fun _ => rfl
  case loadI | print | printB | inc | dec | input | push | pop => exact .intro (withReg_rel _ rfl fun _ => rfl)
  case loadR | comp | andI => exact .intro (withRegs2_rel _ _ rfl fun _ _ => rfl)
  case add | sub | mul | and | or | xor => exact .intro (withRegs3_rel _ _ _ rfl fun _ _ _ => rfl)
  case div => exact .intro (withRegs3_rel _ _ _ rfl fun _ _ _ => ite_rel rfl rfl)
  case color => exact .intro (withRegs3_rel _ _ _ rfl fun _ _ _ => s.putPixel_sameView u _ _ _)
  case colorI => exact .intro (withRegs2_rel _ _ rfl fun _ _ => s.putPixel_sameView u _ _ _)

/-- Settles O48: the second state is the first with other unobservable state. -/
theorem unobservableStateNeverInfluencesProgram : Obligations.UnobservableStateNeverInfluencesProgram := by
  intro i s s' t t' hview h h'
  rw [State.eq_withUnobserved_of_programView hview] at h'
  exact (exec_sameView i s s').rel_of_next h h'

/-! ### The flags (10_state.md R24) -/

/-- `s` with its flags changed by `e` and `z`, of which either can be the identity. -/
def State.mapFlags (e z : Bool → Bool) (s : State) : State :=
  { s with eqFlag := e s.eqFlag, zeroFlag := z s.zeroFlag }

/-- The second state is the first with its flags changed. -/
def FlagsMapped (e z : Bool → Bool) (s s' : State) : Prop := s' = s.mapFlags e z

/-- An instruction does the same to all other state whatever the flags are that it neither writes nor reads. -/
theorem exec_mapFlags (e z : Bool → Bool) (i : Instr) (s : State) (he : i.tag ∈ [Tag.comp, .jeq, .jneq] → e = id)
    (hz : i.tag ∈ [Tag.and, .or, .xor, .andI, .jz, .jnz] → z = id) :
    BothNext (FlagsMapped e z) (exec i s) (exec i (s.mapFlags e z)) := by
  cases i
  case comp =>
    obtain rfl := he (by simp [Instr.tag])
    exact .intro (withRegs2_rel _ _ rfl fun _ _ => rfl)
  case jeq | jneq =>
    obtain rfl := he (by simp [Instr.tag])
    exact .intro (ite_rel rfl rfl)
  case and | or | xor =>
    obtain rfl := hz (by simp [Instr.tag])
    exact .intro (withRegs3_rel _ _ _ rfl fun _ _ _ => rfl)
  case andI =>
    obtain rfl := hz (by simp [Instr.tag])
    exact .intro (withRegs2_rel _ _ rfl fun _ _ => rfl)
  case jz | jnz =>
    obtain rfl := hz (by simp [Instr.tag])
    exact .intro (ite_rel rfl rfl)
  case halt | illegal | nop | jump | call | draw => exact .intro rfl
  case jumpDt => exact .intro (ite_rel rfl rfl)
  case ret => exact execRet_rel rfl rfl fun _ => rfl
  case loadI | print | printB | inc | dec | input | push | pop => exact .intro (withReg_rel _ rfl fun _ => rfl)
  case loadR => exact .intro (withRegs2_rel _ _ rfl fun _ _ => rfl)
  case add | sub | mul => exact .intro (withRegs3_rel _ _ _ rfl fun _ _ _ => rfl)
  case div => exact .intro (withRegs3_rel _ _ _ rfl fun _ _ _ => ite_rel rfl rfl)
  case color => exact .intro (withRegs3_rel _ _ _ rfl fun _ _ _ => ite_rel rfl rfl)
  case colorI => exact .intro (withRegs2_rel _ _ rfl fun _ _ => ite_rel rfl rfl)

section Flags

variable {s t t' : State} {i : Instr} {e z : Bool → Bool}

theorem exec_mapFlags_of_next (h : exec i s = .next t) (he : i.tag ∈ [Tag.comp, .jeq, .jneq] → e = id)
    (hz : i.tag ∈ [Tag.and, .or, .xor, .andI, .jz, .jnz] → z = id) :
    exec i (s.mapFlags e z) = .next (t.mapFlags e z) := by
  obtain ⟨u, u', hu, hu', rfl⟩ := exec_mapFlags e z i s he hz
  cases hu.symm.trans h
  exact hu'

/-- `Comp` with its registers in range leaves one `eq`, whatever it was. -/
theorem Effect.comp_overwrites (h : Effect s i t) (h' : Effect (s.mapFlags e id) i t') (hi : i.tag = .comp)
    (hr : i.regsInRange = true) : t' = t := by
  cases h
  case badRegister hbad => simp [hbad] at hr
  case comp =>
    cases h'
    case badRegister hbad => simp [hbad] at hr
    case comp => rfl
  all_goals cases hi

/-- The bitwise four with their registers in range leave one `zf`, whatever it was. -/
theorem Effect.bitwise_overwrites (h : Effect s i t) (h' : Effect (s.mapFlags id z) i t')
    (hi : i.tag ∈ [Tag.and, .or, .xor, .andI]) (hr : i.regsInRange = true) : t' = t := by
  cases h
  case badRegister hbad => simp [hbad] at hr
  case and | or | xor | andI =>
    cases h'
    case badRegister hbad => simp [hbad] at hr
    all_goals rfl
  all_goals simp [Instr.tag] at hi

end Flags

/-- Settles O46: a flag is kept by all but its writers, overwritten by these, and carried along by the rest. -/
theorem flagsHaveOneKindOfWriterAndReader : Obligations.FlagsHaveOneKindOfWriterAndReader := by
  intro i s t b h
  have he := exec_cases h
  refine ⟨he.keeps_eqFlag, he.keeps_zeroFlag, fun hi hr => ?_, fun hi hr => ?_, fun hi => ?_, fun hi => ?_⟩
  · obtain ⟨t', h', he'⟩ := exec_effect i (s.mapFlags (fun _ => b) id)
    exact he.comp_overwrites he' hi hr ▸ h'
  · obtain ⟨t', h', he'⟩ := exec_effect i (s.mapFlags id fun _ => b)
    exact he.bitwise_overwrites he' hi hr ▸ h'
  · exact exec_mapFlags_of_next (e := fun _ => b) (z := id) h (fun hmem => absurd hmem hi) fun _ => rfl
  · exact exec_mapFlags_of_next (e := id) (z := fun _ => b) h (fun _ => rfl) fun hmem => absurd hmem hi

end Sys2Proof.Machine

/-! SUPPORT. Proofs of the statements about the memories (20_memory.md): which bytes of the frame buffer a step writes. -/

namespace Sys2Proof.Machine

open Sys2Proof

section PixelWrites

variable {s t : State} {i : Instr}

/-- The frame buffer of `t` is that of `s`, with at most one pixel inside the frame replaced, and its coordinates are
bytes (49_graphics.md R221, C2). -/
def WritesAtMostOnePixel (s t : State) : Prop :=
  t.fb = s.fb ∨ ∃ (xv yv : Byte) (color : Rgba), xv.toNat < s.cfg.width ∧ yv.toNat < s.cfg.height ∧
    t.fb = s.fb.writePixel (pixelOffset s.cfg.width xv.toNat yv.toNat) color

/-- `Color` and `ColorI` take both coordinates from registers; the other instructions keep the frame buffer. -/
theorem Effect.writesAtMostOnePixel (h : Effect s i t) : WritesAtMostOnePixel s t := by
  cases h
  case color hw hh => exact .inr ⟨_, _, _, hw, hh, rfl⟩
  case colorI hw hh => exact .inr ⟨_, _, _, hw, hh, rfl⟩
  all_goals exact .inl rfl

/-- Of all the agents' moves only an executed instruction can write the frame buffer. -/
theorem StepEffect.writesAtMostOnePixel (h : StepEffect s t) : WritesAtMostOnePixel s t := by
  cases h
  case executed heffect => exact heffect.writesAtMostOnePixel
  all_goals exact .inl rfl

end PixelWrites

/-- The pixel numbers of a frame determine the coordinates: a row is `width` pixels long and both columns are inside it. -/
theorem pixelNumber_inj {width x y x' y' : Nat} (hx : x < width) (hx' : x' < width)
    (h : x + y * width = x' + y' * width) : x = x' ∧ y = y' := by
  have hcolumn : x = x' := by
    have hmod := congrArg (· % width) h
    simpa only [Nat.add_mul_mod_self_right, Nat.mod_eq_of_lt hx, Nat.mod_eq_of_lt hx'] using hmod
  subst hcolumn
  exact ⟨rfl, Nat.eq_of_mul_eq_mul_right (Nat.zero_lt_of_lt hx) (Nat.add_left_cancel h)⟩

/-- A pixel write keeps every byte that is not one of the pixel's four. -/
theorem Memory.read_writePixel_outside {m : Memory} (hm : m.wf = true) (color : Rgba) {a k : Nat}
    (h : k < a ∨ a + 3 < k) : (m.writePixel a color).read k = m.read k := by
  rw [Memory.read_writePixel _ _ _ _ hm, if_neg (by omega), if_neg (by omega), if_neg (by omega), if_neg (by omega)]

/-- A pixel write keeps the four bytes of every other pixel of the frame (49_graphics.md R221). -/
theorem Memory.read_writePixel_other {m : Memory} (hm : m.wf = true) (color : Rgba) {width x y x' y' k : Nat}
    (hx : x < width) (hx' : x' < width) (hk : k < 4) (hne : ¬ (x = x' ∧ y = y')) :
    (m.writePixel (pixelOffset width x' y') color).read (pixelOffset width x y + k) =
      m.read (pixelOffset width x y + k) := by
  have hnumber : x + y * width ≠ x' + y' * width := fun h => hne (pixelNumber_inj hx hx' h)
  apply Memory.read_writePixel_outside hm
  unfold pixelOffset
  omega

/-- Settles O53: a step writes at most one pixel, whose coordinates are bytes, so it is another pixel than one beyond
them. -/
theorem pixelsBeyondByteCoordinatesNeverChange : Obligations.PixelsBeyondByteCoordinatesNeverChange := by
  intro s t px py c hwf hstep hpx hc hbeyond
  rcases (step_effect hstep).writesAtMostOnePixel with hkeep | ⟨xv, yv, color, hxv, -, hwrite⟩
  · rw [hkeep]
  · have hother : ¬ (px = xv.toNat ∧ py = yv.toNat) := by
      have := xv.isLt
      have := yv.isLt
      omega
    rw [hwrite]
    exact Memory.read_writePixel_other hwf color hpx hxv hc hother

end Sys2Proof.Machine

/-! SUPPORT. Proofs of the statements about the encoding (30_encoding.md). First the opcode table, then `assemble`
against the parts of an instruction (opcode byte, operand bytes, tag), then `decode` on a split byte sequence; then
the statements. -/

namespace Sys2Proof

/-! ### The opcode table (30_encoding.md R93, R94) -/

/-- The table covers the bytes below 31 and names no `illegal`, so exactly the other bytes decode to it. -/
theorem decodeTag_eq_illegal_iff (op : Byte) : decodeTag op = .illegal ↔ 31 ≤ op.toNat := by
  refine ⟨fun h => Nat.le_of_not_lt fun hlt => ?_, fun h => List.getD_eq_default _ _ h⟩
  have hmem : decodeTag op ∈ opcodeMap := by
    rw [decodeTag, List.getD_eq_getElem opcodeMap .illegal hlt]
    exact List.getElem_mem hlt
  rw [h] at hmem
  exact absurd hmem (by decide)

/-- The table has no repeats, so the opcode byte is determined by its tag. -/
theorem opcodeOf_decodeTag {op : Byte} (h : decodeTag op ≠ .illegal) : opcodeOf (decodeTag op) = op := by
  have hlt : op.toNat < opcodeMap.length := Nat.lt_of_not_le fun hge => h ((decodeTag_eq_illegal_iff op).mpr hge)
  have hidx : opcodeMap.idxOf (decodeTag op) = op.toNat := by
    rw [decodeTag, List.getD_eq_getElem opcodeMap .illegal hlt]
    exact (show opcodeMap.Nodup by decide).idxOf_getElem _ hlt
  rw [opcodeOf, hidx, BitVec.ofNat_toNat, BitVec.setWidth_eq]

/-! ### The parts of an instruction -/

/-- The per-instruction facts of the encoding, for every instruction. -/
theorem Instr.framing (i : Instr) : Laws.Framing.Statement i := by
  cases i
  case illegal op => exact Laws.Framing.illegal op
  all_goals exact ⟨rfl, fun _ => rfl⟩

theorem Instr.length_encode (i : Instr) : (encode i).length = 1 + nops i.tag := by
  obtain ⟨hlen, -⟩ := i.framing
  exact hlen

theorem Instr.length_operands (i : Instr) : i.operands.length = nops i.tag := by
  have hlen := i.length_encode
  rw [encode, List.length_cons] at hlen
  omega

/-- An instruction is well-formed exactly when its opcode byte decodes to its tag. -/
theorem Instr.wf_iff_decodeTag (i : Instr) : i.wf = true ↔ decodeTag (opcodeByte i) = i.tag := by
  obtain ⟨-, htag⟩ := i.framing
  refine ⟨htag, fun h => ?_⟩
  cases i
  case illegal op => exact decide_eq_true ((decodeTag_eq_illegal_iff op).mp h)
  all_goals rfl

theorem opcodeByte_eq_opcodeOf {i : Instr} (h : i.tag ≠ .illegal) : opcodeByte i = opcodeOf i.tag := by
  cases i
  case illegal => exact absurd rfl h
  all_goals rfl

/-! ### `assemble` and the parts of an instruction (30_encoding.md R97, R98) -/

theorem tag_assemble (op : Byte) (os : List Byte) : (assemble op os).tag = decodeTag op := by
  unfold assemble
  cases decodeTag op <;> rfl

theorem assemble_of_illegal {op : Byte} (h : decodeTag op = .illegal) (os : List Byte) :
    assemble op os = .illegal op := by
  rw [assemble, h]

theorem opcodeByte_assemble (op : Byte) (os : List Byte) : opcodeByte (assemble op os) = op := by
  by_cases h : decodeTag op = .illegal
  · rw [assemble_of_illegal h]
    rfl
  · have htag : (assemble op os).tag ≠ .illegal := by rwa [tag_assemble]
    rw [opcodeByte_eq_opcodeOf htag, tag_assemble, opcodeOf_decodeTag h]

theorem wf_assemble (op : Byte) (os : List Byte) : (assemble op os).wf = true := by
  rw [Instr.wf_iff_decodeTag, opcodeByte_assemble, tag_assemble]

/-- `assemble` uses every operand byte its tag has, once and in stream order. -/
theorem operands_assemble_eq_map (op : Byte) (os : List Byte) :
    (assemble op os).operands = (List.range (nops (decodeTag op))).map (operand os) := by
  unfold assemble
  cases decodeTag op <;> rfl

theorem map_operand_range_length (os : List Byte) : (List.range os.length).map (operand os) = os := by
  refine List.ext_getElem (by simp) fun k hk hk' => ?_
  simp [operand, hk']

theorem operands_assemble {op : Byte} {os : List Byte} (h : os.length = nops (decodeTag op)) :
    (assemble op os).operands = os := by
  rw [operands_assemble_eq_map, ← h, map_operand_range_length]

theorem encode_assemble {op : Byte} {os : List Byte} (h : os.length = nops (decodeTag op)) :
    encode (assemble op os) = op :: os := by
  rw [encode, opcodeByte_assemble, operands_assemble h]

theorem assemble_opcodeByte_operands {i : Instr} (h : i.wf = true) : assemble (opcodeByte i) i.operands = i := by
  rw [assemble, i.wf_iff_decodeTag.mp h]
  cases i <;> rfl

/-! ### `decode`, by how many bytes follow the opcode (30_encoding.md R92, R99) -/

theorem decode_of_short {op : Byte} {rest : List Byte} (h : rest.length < nops (decodeTag op)) :
    decode (op :: rest) = .refused .missingOperand := if_pos h

theorem decode_of_enough {op : Byte} {rest : List Byte} (h : nops (decodeTag op) ≤ rest.length) :
    decode (op :: rest) =
      .ok (assemble op (rest.take (nops (decodeTag op)))) (rest.drop (nops (decodeTag op))) := if_neg (Nat.not_lt.mpr h)

/-- With exactly the operand bytes split off, `decode` assembles them and leaves the others. -/
theorem decode_append {op : Byte} {os : List Byte} (h : os.length = nops (decodeTag op)) (rest : List Byte) :
    decode (op :: (os ++ rest)) = .ok (assemble op os) rest := by
  have henough : nops (decodeTag op) ≤ (os ++ rest).length := by
    rw [List.length_append]
    omega
  rw [decode_of_enough henough, ← h, List.take_left, List.drop_left]

/-- The inversion lemma of `decode`: what it reads are the opcode byte and exactly the operand bytes of its tag. -/
theorem decode_ok_cases {bs rest : List Byte} {i : Instr} (h : decode bs = .ok i rest) :
    ∃ op os, os.length = nops (decodeTag op) ∧ bs = op :: (os ++ rest) ∧ i = assemble op os := by
  cases bs with
  | nil => cases h
  | cons op tail =>
    rcases Nat.lt_or_ge tail.length (nops (decodeTag op)) with hshort | henough
    · cases (decode_of_short hshort).symm.trans h
    · cases (decode_of_enough henough).symm.trans h
      exact ⟨op, _, List.length_take_of_le henough, by rw [List.take_append_drop], rfl⟩

/-! ### The statements about the decoder and the encoder -/

/-- Settles O1: the opcode byte of a well-formed instruction decodes to its tag, so `decode` splits off exactly its
operand bytes and `assemble` puts them back. -/
theorem decodeOfEncodeGivesInstruction : Obligations.DecodeOfEncodeGivesInstruction := by
  intro i rest hwf
  have hlen : i.operands.length = nops (decodeTag (opcodeByte i)) := by
    rw [i.wf_iff_decodeTag.mp hwf, i.length_operands]
  have hdecode := decode_append hlen rest
  rwa [assemble_opcodeByte_operands hwf] at hdecode

/-- Settles O2: the bytes that `decode` read are the parts of the instruction that `assemble` made of them. -/
theorem encodeOfDecodeGivesBytes : Obligations.EncodeOfDecodeGivesBytes := by
  intro bs i rest h
  obtain ⟨op, os, hlen, rfl, rfl⟩ := decode_ok_cases h
  exact ⟨wf_assemble op os, by rw [encode_assemble hlen, List.cons_append]⟩

/-- Settles O5: the three answers, by whether there is an opcode byte and whether its operand bytes follow. -/
theorem decodeRefusesExactlyShortBytes : Obligations.DecodeRefusesExactlyShortBytes := by
  intro bs
  cases bs with
  | nil => simp [decode]
  | cons op rest =>
    rcases Nat.lt_or_ge rest.length (nops (decodeTag op)) with hshort | henough
    · simp [decode_of_short hshort, hshort]
    · simp [decode_of_enough henough, henough]

/-- Settles O3: the bytes of the table one by one, the others by the bound of the table. -/
theorem decoderMapsEveryOpcodeByte : Obligations.DecoderMapsEveryOpcodeByte :=
  ⟨by decide, fun op => (decodeTag_eq_illegal_iff op).mpr⟩

/-- Settles O4: the counts are the table's; `decode` looks at the operand bytes' number only. -/
theorem operandCountIsFixedByOpcode : Obligations.OperandCountIsFixedByOpcode :=
  ⟨by decide, by decide, by decide, by decide,
    fun op os rest hlen => ⟨assemble op os, tag_assemble op os, decode_append hlen rest⟩⟩

/-- Settles O6: the written bytes are the encodings of the instructions named, so each is a case of O1. -/
theorem writtenBytesDecodeAsTheTableSays : Obligations.WrittenBytesDecodeAsTheTableSays :=
  ⟨decodeOfEncodeGivesInstruction (.loadI 5 250) [] rfl, decodeOfEncodeGivesInstruction (.add 0 1 2) [] rfl,
    decodeOfEncodeGivesInstruction (.andI 4 3 16) [] rfl, decodeOfEncodeGivesInstruction (.colorI 0 1 0x1C) [] rfl,
    decodeOfEncodeGivesInstruction (.jumpDt 23) [] rfl, decodeOfEncodeGivesInstruction .ret [0x04] rfl,
    decodeOfEncodeGivesInstruction (.illegal 0xFF) [0x00] rfl⟩

/-- A decoded instruction takes one byte and its operand bytes off the sequence. -/
theorem length_of_decode_ok {bs rest : List Byte} {i : Instr} (h : decode bs = .ok i rest) :
    bs.length = 1 + nops i.tag + rest.length := by
  obtain ⟨-, rfl⟩ := encodeOfDecodeGivesBytes bs i rest h
  rw [List.length_append, i.length_encode]

end Sys2Proof

namespace Sys2Proof.Machine

open Sys2Proof

/-! ### The fetch of a step against the decoder (30_encoding.md R92), read off `fetchInstr_decode` -/

theorem fetchInstr_of_decode_ok {s : State} {i : Instr} {rest : List Byte}
    (h : decode (s.cfg.prog.drop s.pc) = .ok i rest) :
    fetchInstr s = .got i (s.setPc (s.pc + 1 + nops i.tag)) := by
  have hfetch := fetchInstr_decode s
  rw [h] at hfetch
  obtain ⟨hgot, -⟩ := hfetch
  have hlen := length_of_decode_ok h
  rw [List.length_drop] at hlen
  rw [hgot, show s.cfg.prog.length - rest.length = s.pc + 1 + nops i.tag by omega]

theorem fetchInstr_of_missingOperand {s : State} (h : decode (s.cfg.prog.drop s.pc) = .refused .missingOperand) :
    fetchInstr s = .raised ((s.setPc s.cfg.prog.length).terminate .programBoundsError) := by
  have hfetch := fetchInstr_decode s
  rw [h] at hfetch
  obtain ⟨hraised, -⟩ := hfetch
  exact hraised

/-- Settles O7: the fetch of a ready Engine yields the decoded instruction, with `pc` past its last byte. -/
theorem stepRunsDecodedInstruction : Obligations.StepRunsDecodedInstruction := by
  rintro s i rest ⟨hmove, hrun, hstop⟩ hdecode
  have hfetch : fetchInstr s.advance = .got i (s.advance.setPc (s.pc + 1 + nops i.tag)) :=
    fetchInstr_of_decode_ok hdecode
  exact (step_engine hmove).trans (engineStep_fetched hrun hstop hfetch)

/-- Settles O9: the bytes from `pc` on are too short for their opcode, so the fetch raises with `pc` at the program's
end. -/
theorem missingOperandRaisesAtProgramEnd : Obligations.MissingOperandRaisesAtProgramEnd := by
  rintro s op rest ⟨hmove, hrun, hstop⟩ hbytes hshort
  have hdecode : decode (s.cfg.prog.drop s.pc) = .refused .missingOperand := by rw [hbytes, decode_of_short hshort]
  have hfetch : fetchInstr s.advance =
      .raised ((s.advance.setPc s.cfg.prog.length).terminate .programBoundsError) :=
    fetchInstr_of_missingOperand hdecode
  exact (step_engine hmove).trans (engineStep_raised hrun hstop hfetch)

end Sys2Proof.Machine

/-! SUPPORT. Proofs of the statements about the system instructions (40_system.md): Halt, Illegal, Nop. -/

namespace Sys2Proof

/-- A byte beyond the opcode table is an instruction of its own: it has no operand bytes (40_system.md R121). -/
theorem decode_of_ge_31 {op : Byte} (h : 31 ≤ op.toNat) (rest : List Byte) :
    decode (op :: rest) = .ok (.illegal op) rest := by
  have htag : decodeTag op = .illegal := (decodeTag_eq_illegal_iff op).mpr h
  have hnone : ([] : List Byte).length = nops (decodeTag op) := by rw [htag]; rfl
  have hdecode : decode (op :: rest) = .ok (assemble op []) rest := decode_append hnone rest
  rwa [assemble_of_illegal htag] at hdecode

end Sys2Proof

namespace Sys2Proof.Machine

open Sys2Proof

/-! ### The execute part of each system instruction -/

@[simp] theorem exec_halt (s : State) : exec .halt s = .next (s.terminate .halt) := rfl

@[simp] theorem exec_illegal (op : Byte) (s : State) : exec (.illegal op) s = .next (s.terminate .decodeError) := rfl

@[simp] theorem exec_nop (s : State) : exec .nop s = .next s := rfl

/-! ### The statements -/

/-- Settles O14: Halt is the first entry of the opcode table, and its effect is the end of the run with reason Halt. -/
theorem haltEndsRunNormally : Obligations.HaltEndsRunNormally :=
  fun s => ⟨by decide, exec_halt s⟩

/-- Settles O15: the bytes from 31 on are outside the opcode table, and the reason raised does not depend on the byte. -/
theorem illegalRaisesDecodeError : Obligations.IllegalRaisesDecodeError :=
  fun s op rest => ⟨fun h => decode_of_ge_31 h rest, exec_illegal op s⟩

/-- Settles O16: Nop is the fifth entry of the opcode table, and its effect is the identity. -/
theorem nopChangesNothing : Obligations.NopChangesNothing :=
  fun s => ⟨by decide, exec_nop s⟩

end Sys2Proof.Machine

/-! SUPPORT. Proofs of the statements about the moves (41_move.md): LoadI, LoadR. First what one and two register operands
do in each case, which the instructions of the other groups share. -/

namespace Sys2Proof.Machine

open Sys2Proof

/-! ### Register operands in range and out of range (30_encoding.md R92) -/

section Operands

variable {o o1 o2 : Byte}

theorem withReg_of_lt (h : o.toNat < 64) (s : State) (f : Fin 64 → State) : withReg o s f = f ⟨o.toNat, h⟩ := by
  rcases withReg_cases o s f with ⟨_, e⟩ | ⟨hge, -⟩
  · exact e
  · omega

theorem withReg_of_ge (h : 64 ≤ o.toNat) (s : State) (f : Fin 64 → State) :
    withReg o s f = s.terminate .registerRangeError := by
  rcases withReg_cases o s f with ⟨hlt, -⟩ | ⟨-, e⟩
  · omega
  · exact e

theorem withRegs2_of_lt (h1 : o1.toNat < 64) (h2 : o2.toNat < 64) (s : State) (f : Fin 64 → Fin 64 → State) :
    withRegs2 o1 o2 s f = f ⟨o1.toNat, h1⟩ ⟨o2.toNat, h2⟩ := by
  rcases withRegs2_cases o1 o2 s f with ⟨_, _, e⟩ | ⟨hge, -⟩
  · exact e
  · omega

theorem withRegs2_of_ge (h : 64 ≤ o1.toNat ∨ 64 ≤ o2.toNat) (s : State) (f : Fin 64 → Fin 64 → State) :
    withRegs2 o1 o2 s f = s.terminate .registerRangeError := by
  rcases withRegs2_cases o1 o2 s f with ⟨h1, h2, -⟩ | ⟨-, e⟩
  · omega
  · exact e

end Operands

/-! ### The execute part of each move -/

section Moves

variable {dst src : Byte}

theorem exec_loadI_of_lt (hd : dst.toNat < 64) (imm : Byte) (s : State) :
    exec (.loadI dst imm) s = .next (s.writeReg ⟨dst.toNat, hd⟩ imm) :=
  congrArg Host.Outcome.next (withReg_of_lt hd s _)

theorem exec_loadI_of_ge (hd : 64 ≤ dst.toNat) (imm : Byte) (s : State) :
    exec (.loadI dst imm) s = .next (s.terminate .registerRangeError) :=
  congrArg Host.Outcome.next (withReg_of_ge hd s _)

theorem exec_loadR_of_lt (hd : dst.toNat < 64) (hs : src.toNat < 64) (s : State) :
    exec (.loadR dst src) s = .next (s.writeReg ⟨dst.toNat, hd⟩ (s.readReg ⟨src.toNat, hs⟩)) :=
  congrArg Host.Outcome.next (withRegs2_of_lt hd hs s _)

theorem exec_loadR_of_ge (h : 64 ≤ dst.toNat ∨ 64 ≤ src.toNat) (s : State) :
    exec (.loadR dst src) s = .next (s.terminate .registerRangeError) :=
  congrArg Host.Outcome.next (withRegs2_of_ge h s _)

end Moves

/-! ### The statements -/

/-- Settles O17: LoadI is the second entry of the opcode table, and its one register operand decides between the write
of the literal and the fault. -/
theorem loadIWritesImmediate : Obligations.LoadIWritesImmediate :=
  fun s _ imm => ⟨rfl, fun hd => exec_loadI_of_lt hd imm s, fun hd => exec_loadI_of_ge hd imm s⟩

/-- Settles O18: LoadR is the seventh entry of the opcode table, and its two register operands decide between the copy
and the fault. -/
theorem loadRCopiesRegister : Obligations.LoadRCopiesRegister :=
  fun s _ _ => ⟨rfl, fun hd hs => exec_loadR_of_lt hd hs s, fun h => exec_loadR_of_ge h s⟩

end Sys2Proof.Machine

/-! SUPPORT. Proofs of the statements about the arithmetic (42_arithmetic.md): Add, Sub, Mul, Div. First the operations on
bytes as operations on their numbers, then what three register operands do in each case. -/

namespace Sys2Proof

/-! ### Byte operations as operations on the bytes' numbers (42_arithmetic.md R140 to R143) -/

section Residues

variable (x y : Byte)

theorem byte_add_eq_residue : x + y = BitVec.ofNat 8 ((x.toNat + y.toNat) % 256) :=
  BitVec.eq_of_toNat_eq (by simp)

/-- The difference is taken in the integers: the model's subtraction wraps to the non-negative residue. -/
theorem byte_sub_eq_residue : x - y = BitVec.ofInt 8 (((x.toNat : Int) - y.toNat) % 256) := by
  apply BitVec.eq_of_toNat_eq
  have hy : y.toNat < 256 := y.isLt
  rw [BitVec.toNat_sub, BitVec.toNat_ofInt]
  omega

theorem byte_mul_eq_residue : x * y = BitVec.ofNat 8 ((x.toNat * y.toNat) % 256) :=
  BitVec.eq_of_toNat_eq (by simp)

end Residues

/-- The two bounds that characterise a floor quotient, for bytes read as unsigned numbers (D5). -/
theorem byte_div_floor (x : Byte) {y : Byte} (hy : y ≠ 0) :
    (x / y).toNat * y.toNat ≤ x.toNat ∧ x.toNat < ((x / y).toNat + 1) * y.toNat := by
  have hpos : 0 < y.toNat := Nat.pos_of_ne_zero fun h => hy (BitVec.eq_of_toNat_eq h)
  rw [BitVec.toNat_udiv]
  exact ⟨Nat.div_mul_le_self _ _, (Nat.div_lt_iff_lt_mul hpos).mp (Nat.lt_succ_self _)⟩

end Sys2Proof

namespace Sys2Proof.Machine

open Sys2Proof

/-! ### Three register operands in range and out of range (30_encoding.md R92) -/

section Operands

variable {o1 o2 o3 : Byte}

theorem withRegs3_of_lt (h1 : o1.toNat < 64) (h2 : o2.toNat < 64) (h3 : o3.toNat < 64) (s : State)
    (f : Fin 64 → Fin 64 → Fin 64 → State) :
    withRegs3 o1 o2 o3 s f = f ⟨o1.toNat, h1⟩ ⟨o2.toNat, h2⟩ ⟨o3.toNat, h3⟩ := by
  rcases withRegs3_cases o1 o2 o3 s f with ⟨_, _, _, e⟩ | ⟨hge, -⟩
  · exact e
  · omega

theorem withRegs3_of_ge (h : 64 ≤ o1.toNat ∨ 64 ≤ o2.toNat ∨ 64 ≤ o3.toNat) (s : State)
    (f : Fin 64 → Fin 64 → Fin 64 → State) : withRegs3 o1 o2 o3 s f = s.terminate .registerRangeError := by
  rcases withRegs3_cases o1 o2 o3 s f with ⟨h1, h2, h3, -⟩ | ⟨-, e⟩
  · omega
  · exact e

end Operands

/-! ### The execute part of each arithmetic instruction -/

section Arithmetic

variable {dst a b : Byte}

section InRange

variable (hd : dst.toNat < 64) (ha : a.toNat < 64) (hb : b.toNat < 64) (s : State)

theorem exec_add_of_lt : exec (.add dst a b) s =
    .next (s.writeReg ⟨dst.toNat, hd⟩ (s.readReg ⟨a.toNat, ha⟩ + s.readReg ⟨b.toNat, hb⟩)) :=
  congrArg Host.Outcome.next (withRegs3_of_lt hd ha hb s _)

theorem exec_sub_of_lt : exec (.sub dst a b) s =
    .next (s.writeReg ⟨dst.toNat, hd⟩ (s.readReg ⟨a.toNat, ha⟩ - s.readReg ⟨b.toNat, hb⟩)) :=
  congrArg Host.Outcome.next (withRegs3_of_lt hd ha hb s _)

theorem exec_mul_of_lt : exec (.mul dst a b) s =
    .next (s.writeReg ⟨dst.toNat, hd⟩ (s.readReg ⟨a.toNat, ha⟩ * s.readReg ⟨b.toNat, hb⟩)) :=
  congrArg Host.Outcome.next (withRegs3_of_lt hd ha hb s _)

theorem exec_div_of_lt_of_ne_zero (hne : s.readReg ⟨b.toNat, hb⟩ ≠ 0) : exec (.div dst a b) s =
    .next (s.writeReg ⟨dst.toNat, hd⟩ (s.readReg ⟨a.toNat, ha⟩ / s.readReg ⟨b.toNat, hb⟩)) := by
  rw [BitVec.udiv_def]
  exact congrArg Host.Outcome.next ((withRegs3_of_lt hd ha hb s _).trans (if_neg hne))

include hd ha in
theorem exec_div_of_lt_of_zero (hz : s.readReg ⟨b.toNat, hb⟩ = 0) :
    exec (.div dst a b) s = .next (s.terminate .arithmeticError) :=
  congrArg Host.Outcome.next ((withRegs3_of_lt hd ha hb s _).trans (if_pos hz))

end InRange

section OutOfRange

variable (h : 64 ≤ dst.toNat ∨ 64 ≤ a.toNat ∨ 64 ≤ b.toNat) (s : State)

include h

theorem exec_add_of_ge : exec (.add dst a b) s = .next (s.terminate .registerRangeError) :=
  congrArg Host.Outcome.next (withRegs3_of_ge h s _)

theorem exec_sub_of_ge : exec (.sub dst a b) s = .next (s.terminate .registerRangeError) :=
  congrArg Host.Outcome.next (withRegs3_of_ge h s _)

theorem exec_mul_of_ge : exec (.mul dst a b) s = .next (s.terminate .registerRangeError) :=
  congrArg Host.Outcome.next (withRegs3_of_ge h s _)

theorem exec_div_of_ge : exec (.div dst a b) s = .next (s.terminate .registerRangeError) :=
  congrArg Host.Outcome.next (withRegs3_of_ge h s _)

end OutOfRange

end Arithmetic

/-! ### The statements -/

/-- Settles O19: in range, each of the three writes the byte operation's value, which is the residue of the operation on
the numbers; out of range, the three share one fault. -/
theorem addSubMulWrapModulo256 : Obligations.AddSubMulWrapModulo256 := by
  intro s dst a b
  refine ⟨rfl, rfl, rfl, fun hd ha hb => ?inRange,
    fun h => ⟨exec_add_of_ge h s, exec_sub_of_ge h s, exec_mul_of_ge h s⟩⟩
  case inRange =>
    rw [exec_add_of_lt hd ha hb, exec_sub_of_lt hd ha hb, exec_mul_of_lt hd ha hb,
      byte_add_eq_residue, byte_sub_eq_residue, byte_mul_eq_residue]
    exact ⟨rfl, rfl, rfl⟩

/-- Settles O20: in range, the divisor decides between the quotient and ArithmeticError; out of range, the divisor is not
looked at. -/
theorem divFloorsAndFaultsOnZero : Obligations.DivFloorsAndFaultsOnZero := by
  intro s dst a b
  refine ⟨rfl, fun hd ha hb => ⟨fun hne => ?quotient, fun hz => exec_div_of_lt_of_zero hd ha hb s hz⟩,
    fun h => exec_div_of_ge h s⟩
  case quotient =>
    obtain ⟨hle, hlt⟩ := byte_div_floor s.x[a.toNat] hne
    exact ⟨_, hle, hlt, exec_div_of_lt_of_ne_zero hd ha hb s hne⟩

end Sys2Proof.Machine

/-! SUPPORT. Proofs of the statements about the logic and the comparison (43_logic_compare.md): And, Or, Xor, AndI, Comp.
First the two writes of a flag in the record form of the statements. -/

namespace Sys2Proof.Machine

open Sys2Proof

/-! ### The flag writes (10_state.md R24) -/

theorem State.writeLogic_eq (s : State) (d : Fin 64) (v : Byte) :
    s.writeLogic d v = { s with x := s.x.set d.val v d.isLt, zeroFlag := v == 0 } := rfl

/-- Two bytes are equal exactly when their numbers are. -/
theorem State.setEqual_eq (s : State) (v w : Byte) :
    s.setEqual v w = { s with eqFlag := v.toNat == w.toNat } := by
  have hflag : decide (v = w) = (v.toNat == w.toNat) := decide_eq_decide.mpr BitVec.toNat_inj.symm
  rw [State.setEqual, hflag]

/-! ### The execute part of each logic instruction and of the comparison -/

section Logic

variable {dst src a b : Byte}

section InRange

variable (hd : dst.toNat < 64) (hs : src.toNat < 64) (ha : a.toNat < 64) (hb : b.toNat < 64) (s : State)

theorem exec_and_of_lt : exec (.and dst a b) s =
    .next (s.writeLogic ⟨dst.toNat, hd⟩ (s.readReg ⟨a.toNat, ha⟩ &&& s.readReg ⟨b.toNat, hb⟩)) :=
  congrArg Host.Outcome.next (withRegs3_of_lt hd ha hb s _)

theorem exec_or_of_lt : exec (.or dst a b) s =
    .next (s.writeLogic ⟨dst.toNat, hd⟩ (s.readReg ⟨a.toNat, ha⟩ ||| s.readReg ⟨b.toNat, hb⟩)) :=
  congrArg Host.Outcome.next (withRegs3_of_lt hd ha hb s _)

theorem exec_xor_of_lt : exec (.xor dst a b) s =
    .next (s.writeLogic ⟨dst.toNat, hd⟩ (s.readReg ⟨a.toNat, ha⟩ ^^^ s.readReg ⟨b.toNat, hb⟩)) :=
  congrArg Host.Outcome.next (withRegs3_of_lt hd ha hb s _)

theorem exec_andI_of_lt (imm : Byte) : exec (.andI dst src imm) s =
    .next (s.writeLogic ⟨dst.toNat, hd⟩ (s.readReg ⟨src.toNat, hs⟩ &&& imm)) :=
  congrArg Host.Outcome.next (withRegs2_of_lt hd hs s _)

theorem exec_comp_of_lt : exec (.comp a b) s =
    .next (s.setEqual (s.readReg ⟨a.toNat, ha⟩) (s.readReg ⟨b.toNat, hb⟩)) :=
  congrArg Host.Outcome.next (withRegs2_of_lt ha hb s _)

end InRange

section OutOfRange

theorem exec_and_of_ge (h : 64 ≤ dst.toNat ∨ 64 ≤ a.toNat ∨ 64 ≤ b.toNat) (s : State) :
    exec (.and dst a b) s = .next (s.terminate .registerRangeError) :=
  congrArg Host.Outcome.next (withRegs3_of_ge h s _)

theorem exec_or_of_ge (h : 64 ≤ dst.toNat ∨ 64 ≤ a.toNat ∨ 64 ≤ b.toNat) (s : State) :
    exec (.or dst a b) s = .next (s.terminate .registerRangeError) :=
  congrArg Host.Outcome.next (withRegs3_of_ge h s _)

theorem exec_xor_of_ge (h : 64 ≤ dst.toNat ∨ 64 ≤ a.toNat ∨ 64 ≤ b.toNat) (s : State) :
    exec (.xor dst a b) s = .next (s.terminate .registerRangeError) :=
  congrArg Host.Outcome.next (withRegs3_of_ge h s _)

theorem exec_andI_of_ge (h : 64 ≤ dst.toNat ∨ 64 ≤ src.toNat) (imm : Byte) (s : State) :
    exec (.andI dst src imm) s = .next (s.terminate .registerRangeError) :=
  congrArg Host.Outcome.next (withRegs2_of_ge h s _)

theorem exec_comp_of_ge (h : 64 ≤ a.toNat ∨ 64 ≤ b.toNat) (s : State) :
    exec (.comp a b) s = .next (s.terminate .registerRangeError) :=
  congrArg Host.Outcome.next (withRegs2_of_ge h s _)

end OutOfRange

end Logic

/-! ### The statements -/

/-- Settles O22: in range, the byte written is the byte operation's value, whose bits are the operation on the sources'
bits; out of range, the three share one fault. -/
theorem bitwiseWriteResultAndZeroFlag : Obligations.BitwiseWriteResultAndZeroFlag := by
  intro s dst a b
  refine ⟨rfl, rfl, rfl, fun hd ha hb => ?inRange,
    fun h => ⟨exec_and_of_ge h s, exec_or_of_ge h s, exec_xor_of_ge h s⟩⟩
  case inRange =>
    rw [exec_and_of_lt hd ha hb, exec_or_of_lt hd ha hb, exec_xor_of_lt hd ha hb]
    simp only [State.writeLogic_eq]
    exact ⟨⟨_, fun _ => BitVec.getLsbD_and, rfl⟩, ⟨_, fun _ => BitVec.getLsbD_or, rfl⟩,
      ⟨_, fun _ => BitVec.getLsbD_xor, rfl⟩⟩

/-- Settles O23: the two register operands alone decide between the write and the fault; the literal only masks. -/
theorem andIMasksWithLiteral : Obligations.AndIMasksWithLiteral := by
  intro s dst src imm
  refine ⟨rfl, fun hd hs => ?inRange, fun h => exec_andI_of_ge h imm s⟩
  case inRange =>
    rw [exec_andI_of_lt hd hs, State.writeLogic_eq]
    exact ⟨_, fun _ => BitVec.getLsbD_and, rfl⟩

/-- Settles O24: in range, the flag that `setEqual` decides on the bytes is the one on their numbers. -/
theorem compSetsEqualFlagOnly : Obligations.CompSetsEqualFlagOnly := by
  intro s a b
  refine ⟨rfl, fun ha hb => ?inRange, fun h => exec_comp_of_ge h s⟩
  case inRange =>
    rw [exec_comp_of_lt ha hb, State.setEqual_eq]
    rfl

end Sys2Proof.Machine

/-! SUPPORT. Proof of the statement about the increment and the decrement (44_incdec.md): Inc, Dec. -/

namespace Sys2Proof.Machine

open Sys2Proof

/-! ### The execute part of Inc and Dec -/

section IncDec

variable {r : Byte}

theorem exec_inc_of_lt (hr : r.toNat < 64) (s : State) :
    exec (.inc r) s = .next (s.writeReg ⟨r.toNat, hr⟩ (s.readReg ⟨r.toNat, hr⟩ + 1)) :=
  congrArg Host.Outcome.next (withReg_of_lt hr s _)

theorem exec_inc_of_ge (hr : 64 ≤ r.toNat) (s : State) : exec (.inc r) s = .next (s.terminate .registerRangeError) :=
  congrArg Host.Outcome.next (withReg_of_ge hr s _)

theorem exec_dec_of_lt (hr : r.toNat < 64) (s : State) :
    exec (.dec r) s = .next (s.writeReg ⟨r.toNat, hr⟩ (s.readReg ⟨r.toNat, hr⟩ - 1)) :=
  congrArg Host.Outcome.next (withReg_of_lt hr s _)

theorem exec_dec_of_ge (hr : 64 ≤ r.toNat) (s : State) : exec (.dec r) s = .next (s.terminate .registerRangeError) :=
  congrArg Host.Outcome.next (withReg_of_ge hr s _)

end IncDec

/-! ### The statement -/

/-- Settles O21: in range, Inc and Dec are the byte sum and difference with the byte 1, so the residues of Add and Sub
serve them with 1 as the second number; out of range, the two share one fault. -/
theorem incDecWrapModulo256 : Obligations.IncDecWrapModulo256 := by
  intro s r
  refine ⟨rfl, rfl, fun hr => ?inRange, fun hr => ⟨exec_inc_of_ge hr s, exec_dec_of_ge hr s⟩⟩
  case inRange =>
    rw [exec_inc_of_lt hr, exec_dec_of_lt hr, byte_add_eq_residue, byte_sub_eq_residue]
    exact ⟨rfl, rfl⟩

end Sys2Proof.Machine

/-! SUPPORT. Proofs of the statements about the jumps (45_branch.md): Jump, Jeq, Jneq, Jz, Jnz, JumpDt. -/

namespace Sys2Proof.Machine

open Sys2Proof

/-! ### A jump on a flag and the jump on its complement: exactly one of the two is taken (45_branch.md R171 to R174) -/

section Flag

variable {c : Bool}

theorem State.jumpIf_pair_of_true (h : c = true) (s : State) (addr : Byte) :
    s.jumpIf c addr = { s with pc := addr.toNat } ∧ s.jumpIf (!c) addr = s := by
  subst h
  exact ⟨rfl, rfl⟩

theorem State.jumpIf_pair_of_false (h : c = false) (s : State) (addr : Byte) :
    s.jumpIf c addr = s ∧ s.jumpIf (!c) addr = { s with pc := addr.toNat } := by
  subst h
  exact ⟨rfl, rfl⟩

end Flag

/-! ### The execute part of each jump -/

section Jumps

variable (addr : Byte) (s : State)

@[simp] theorem exec_jump : exec (.jump addr) s = .next (s.setPc addr.toNat) := rfl

@[simp] theorem exec_jeq : exec (.jeq addr) s = .next (s.jumpIf s.eqFlag addr) := rfl

@[simp] theorem exec_jneq : exec (.jneq addr) s = .next (s.jumpIf (!s.eqFlag) addr) := rfl

@[simp] theorem exec_jz : exec (.jz addr) s = .next (s.jumpIf s.zeroFlag addr) := rfl

@[simp] theorem exec_jnz : exec (.jnz addr) s = .next (s.jumpIf (!s.zeroFlag) addr) := rfl

variable {s}

/-- Within the period the reference stays, and only the clock's record moves beside `pc` (45_branch.md R176, C3). -/
theorem exec_jumpDt_of_lt (h : s.clockAnswer - s.tLast < s.cfg.period) :
    exec (.jumpDt addr) s = .next (s.readClock.setPc addr.toNat) :=
  congrArg Host.Outcome.next (if_pos h)

/-- Once the period has passed, the one reading that found this out is the new reference (45_branch.md R177). -/
theorem exec_jumpDt_of_ge (h : s.cfg.period ≤ s.clockAnswer - s.tLast) :
    exec (.jumpDt addr) s = .next (s.readClock.setThrottle s.clockAnswer) :=
  congrArg Host.Outcome.next (if_neg h.not_gt)

end Jumps

/-! ### The statements -/

/-- Settles O27: the reading is the clock's next answer, and its distance from the reference decides between the jump and
the new reference. -/
theorem jumpDtThrottlesByElapsedTime : Obligations.JumpDtThrottlesByElapsedTime := by
  intro s addr
  refine ⟨rfl, s.clockAnswer, s.clock_le_clockAnswer, s.clockAnswer_of_script, fun hlt => ?within, fun hge => ?expired⟩
  case within => exact exec_jumpDt_of_lt addr hlt
  case expired => exact exec_jumpDt_of_ge addr hge

/-- Settles O25: Jump is the sixth entry of the opcode table, and its effect is the write of `pc` alone. -/
theorem jumpSetsInstructionPointer : Obligations.JumpSetsInstructionPointer :=
  fun s addr => ⟨rfl, exec_jump addr s⟩

/-- Settles O26: Jeq and Jneq are a jump on `eq` and the jump on its complement, Jz and Jnz the same on `zf`. -/
theorem conditionalJumpsFollowTheirFlag : Obligations.ConditionalJumpsFollowTheirFlag := by
  intro s addr
  simp only [exec_jeq, exec_jneq, exec_jz, exec_jnz, Host.Outcome.next.injEq]
  exact ⟨⟨rfl, rfl, rfl, rfl⟩,
    fun heq => State.jumpIf_pair_of_true heq s addr, fun heq => State.jumpIf_pair_of_false heq s addr,
    fun hzero => State.jumpIf_pair_of_true hzero s addr, fun hzero => State.jumpIf_pair_of_false hzero s addr⟩

end Sys2Proof.Machine

/-! SUPPORT. Proofs of the statements about the call state (46_call_return.md): Call, Ret. -/

namespace Sys2Proof.Machine

open Sys2Proof

/-! ### The execute part of Call and Ret -/

section CallReturn

variable {s : State} {a : Nat}

@[simp] theorem exec_call (addr : Byte) (s : State) : exec (.call addr) s = .next (s.enterCall addr.toNat) := rfl

theorem exec_ret_of_slot (h : s.rs = some a) : exec .ret s = .next (s.leaveCall a) := by
  simp only [exec, execRet, h]

theorem exec_ret_of_empty_slot (h : s.rs = none) : exec .ret s = .next (s.terminate .callStackError) := by
  simp only [exec, execRet, h]

/-- With a top element on the call stack, this element becomes the slot (46_call_return.md R191). -/
theorem exec_ret_of_cs {below : List (Option Nat)} {slot : Option Nat} (hrs : s.rs = some a)
    (hcs : s.cs = below ++ [slot]) : exec .ret s = .next { s with pc := a, rs := slot, cs := below } := by
  rw [exec_ret_of_slot hrs, State.leaveCall_of_cs a hcs]

/-- From the empty call stack nothing is popped, and the slot becomes empty (D17). -/
theorem State.leaveCall_of_cs_nil (a : Nat) (h : s.cs = []) : s.leaveCall a = { s with pc := a, rs := none } := by
  simp [State.leaveCall, h]

end CallReturn

/-! ### The statements -/

/-- Settles O45: the Call's slot and the top of its stack are what Ret reads, and these are the pc and the slot before
the Call. -/
theorem retUndoesCall : Obligations.RetUndoesCall := by
  intro s t u addr hcall hrs hcs
  obtain rfl : t = s.enterCall addr.toNat := (exec_cases hcall).eq_enterCall
  rw [State.enterCall_rs] at hrs
  rw [State.enterCall_cs] at hcs
  exact exec_ret_of_cs hrs hcs

/-- Settles O28: Call is the fourteenth entry of the opcode table, and its effect is the three writes of `enterCall`. -/
theorem callSavesReturnSlot : Obligations.CallSavesReturnSlot :=
  fun s addr => ⟨rfl, exec_call addr s⟩

/-- Settles O29: the slot decides between the fault and the return, the call stack what the slot becomes. -/
theorem retResumesAtReturnSlot : Obligations.RetResumesAtReturnSlot := by
  intro s
  refine ⟨rfl, fun hempty => ?emptySlot, fun a below top hrs hcs => ?popped, fun a hrs hnil => ?emptyStack⟩
  case emptySlot => exact exec_ret_of_empty_slot hempty
  case popped => exact exec_ret_of_cs hrs hcs
  case emptyStack => rw [exec_ret_of_slot hrs, State.leaveCall_of_cs_nil a hnil]

end Sys2Proof.Machine

/-! SUPPORT. Proofs of the statements about the data stack (47_stack.md): Push, Pop. -/

namespace Sys2Proof.Machine

open Sys2Proof

/-! ### What a pop takes and what it leaves, with a top element and from the empty stack (47_stack.md R201) -/

section DataStack

variable {s : State} {below : List Byte} {v : Byte}

theorem State.topData_of_ds (h : s.ds = below ++ [v]) : s.topData = v := by
  simp [State.topData, h]

theorem State.dropData_of_ds (h : s.ds = below ++ [v]) : s.dropData = { s with ds := below } := by
  simp [State.dropData, h]

theorem State.topData_of_ds_nil (h : s.ds = []) : s.topData = 0 := by
  simp [State.topData, h]

/-- The empty stack has nothing to drop, so the whole state stays. -/
theorem State.dropData_of_ds_nil (h : s.ds = []) : s.dropData = s := by
  rw [State.dropData, h, List.dropLast_nil, ← h]

end DataStack

/-! ### The execute part of Push and Pop -/

section PushPop

variable {r : Byte}

theorem exec_push_of_lt (hr : r.toNat < 64) (s : State) :
    exec (.push r) s = .next (s.pushData (s.readReg ⟨r.toNat, hr⟩)) :=
  congrArg Host.Outcome.next (withReg_of_lt hr s _)

theorem exec_push_of_ge (hr : 64 ≤ r.toNat) (s : State) : exec (.push r) s = .next (s.terminate .registerRangeError) :=
  congrArg Host.Outcome.next (withReg_of_ge hr s _)

theorem exec_pop_of_lt (hr : r.toNat < 64) (s : State) :
    exec (.pop r) s = .next (s.dropData.writeReg ⟨r.toNat, hr⟩ s.topData) :=
  congrArg Host.Outcome.next (withReg_of_lt hr s _)

theorem exec_pop_of_ge (hr : 64 ≤ r.toNat) (s : State) : exec (.pop r) s = .next (s.terminate .registerRangeError) :=
  congrArg Host.Outcome.next (withReg_of_ge hr s _)

end PushPop

/-! ### The statements -/

/-- Settles O30: the operand alone decides between the append and the fault; the depth of the stack is not looked at. -/
theorem pushAppendsToDataStack : Obligations.PushAppendsToDataStack :=
  fun s _ => ⟨rfl, fun hr => exec_push_of_lt hr s, fun hr => exec_push_of_ge hr s⟩

/-- Settles O31: in range, the stack decides what is written and what is left of it; out of range, it is not looked at. -/
theorem popTakesTopOrZero : Obligations.PopTakesTopOrZero := by
  intro s r
  refine ⟨rfl, fun hr => ⟨fun below v htop => ?top, fun hnil => ?empty⟩, fun hr => exec_pop_of_ge hr s⟩
  case top =>
    rw [exec_pop_of_lt hr, State.topData_of_ds htop, State.dropData_of_ds htop]
    rfl
  case empty =>
    rw [exec_pop_of_lt hr, State.topData_of_ds_nil hnil, State.dropData_of_ds_nil hnil]
    rfl

end Sys2Proof.Machine

/-! SUPPORT. Proofs of the statements about input and output (48_io.md): Input, Print, PrintB. -/

namespace Sys2Proof.Machine

open Sys2Proof

/-! ### The execute part of Input, Print and PrintB -/

section InputOutput

variable {r : Byte}

theorem exec_input_of_lt (hr : r.toNat < 64) (s : State) :
    exec (.input r) s = .next (s.writeReg ⟨r.toNat, hr⟩ s.ctrl) :=
  congrArg Host.Outcome.next (withReg_of_lt hr s _)

theorem exec_input_of_ge (hr : 64 ≤ r.toNat) (s : State) :
    exec (.input r) s = .next (s.terminate .registerRangeError) :=
  congrArg Host.Outcome.next (withReg_of_ge hr s _)

theorem exec_print_of_lt (hr : r.toNat < 64) (s : State) :
    exec (.print r) s = .next (s.emit .dec (s.readReg ⟨r.toNat, hr⟩)) :=
  congrArg Host.Outcome.next (withReg_of_lt hr s _)

theorem exec_print_of_ge (hr : 64 ≤ r.toNat) (s : State) :
    exec (.print r) s = .next (s.terminate .registerRangeError) :=
  congrArg Host.Outcome.next (withReg_of_ge hr s _)

theorem exec_printB_of_lt (hr : r.toNat < 64) (s : State) :
    exec (.printB r) s = .next (s.emit .bin (s.readReg ⟨r.toNat, hr⟩)) :=
  congrArg Host.Outcome.next (withReg_of_lt hr s _)

theorem exec_printB_of_ge (hr : 64 ≤ r.toNat) (s : State) :
    exec (.printB r) s = .next (s.terminate .registerRangeError) :=
  congrArg Host.Outcome.next (withReg_of_ge hr s _)

end InputOutput

/-! ### The statements -/

/-- Settles O32: the operand alone decides between the copy of the latch and the fault. -/
theorem inputReadsControllerLatch : Obligations.InputReadsControllerLatch :=
  fun s _ => ⟨rfl, fun hr => exec_input_of_lt hr s, fun hr => exec_input_of_ge hr s⟩

/-- Settles O33: the operand decides between the event and the fault; the two instructions differ in the radix alone. -/
theorem printsEmitRadixAndValue : Obligations.PrintsEmitRadixAndValue :=
  fun s _ => ⟨rfl, rfl, fun hr => ⟨exec_print_of_lt hr s, exec_printB_of_lt hr s⟩,
    fun hr => ⟨exec_print_of_ge hr s, exec_printB_of_ge hr s⟩⟩

end Sys2Proof.Machine

/-! SUPPORT. Proofs of the statements about the graphics (49_graphics.md): the colour expansion, Color, ColorI, Draw. -/

namespace Sys2Proof.Machine

open Sys2Proof

/-! ### A pixel write inside the frame and outside it (49_graphics.md R221, C2) -/

section Pixel

variable {s : State} {xv yv : Byte}

theorem State.putPixel_of_inside (hw : xv.toNat < s.cfg.width) (hh : yv.toNat < s.cfg.height) (v : Byte) :
    s.putPixel xv yv v =
      { s with fb := s.fb.writePixel (pixelOffset s.cfg.width xv.toNat yv.toNat) (expand v) } := by
  rcases s.putPixel_cases xv yv v with ⟨hout, -⟩ | ⟨-, -, e⟩
  · omega
  · exact e

theorem State.putPixel_of_outside (h : s.cfg.width ≤ xv.toNat ∨ s.cfg.height ≤ yv.toNat) (v : Byte) :
    s.putPixel xv yv v = s.terminate .frameBoundsError := by
  rcases s.putPixel_cases xv yv v with ⟨-, e⟩ | ⟨hw, hh, -⟩
  · exact e
  · omega

end Pixel

/-! ### The execute part of Color, ColorI and Draw -/

section Graphics

variable {x y c : Byte}

theorem exec_color_of_lt (hx : x.toNat < 64) (hy : y.toNat < 64) (hc : c.toNat < 64) (s : State) :
    exec (.color x y c) s =
      .next (s.putPixel (s.readReg ⟨x.toNat, hx⟩) (s.readReg ⟨y.toNat, hy⟩) (s.readReg ⟨c.toNat, hc⟩)) :=
  congrArg Host.Outcome.next (withRegs3_of_lt hx hy hc s _)

theorem exec_color_of_ge (h : 64 ≤ x.toNat ∨ 64 ≤ y.toNat ∨ 64 ≤ c.toNat) (s : State) :
    exec (.color x y c) s = .next (s.terminate .registerRangeError) :=
  congrArg Host.Outcome.next (withRegs3_of_ge h s _)

theorem exec_colorI_of_lt (hx : x.toNat < 64) (hy : y.toNat < 64) (imm : Byte) (s : State) :
    exec (.colorI x y imm) s = .next (s.putPixel (s.readReg ⟨x.toNat, hx⟩) (s.readReg ⟨y.toNat, hy⟩) imm) :=
  congrArg Host.Outcome.next (withRegs2_of_lt hx hy s _)

theorem exec_colorI_of_ge (h : 64 ≤ x.toNat ∨ 64 ≤ y.toNat) (imm : Byte) (s : State) :
    exec (.colorI x y imm) s = .next (s.terminate .registerRangeError) :=
  congrArg Host.Outcome.next (withRegs2_of_ge h s _)

@[simp] theorem exec_draw (s : State) : exec .draw s = .next s.sendFrame := rfl

end Graphics

/-! ### The colour expansion on the bytes' numbers (49_graphics.md R220, C1) -/

theorem bitField_eq_div_mod (v : Byte) (hi lo : Nat) : bitField v hi lo = v.toNat / 2 ^ lo % 2 ^ (hi - lo + 1) := by
  rw [bitField, Nat.shiftRight_eq_div_pow]

theorem expand_red_toNat (v : Byte) : (expand v).red.toNat = 36 * (v.toNat / 32 % 8) := by
  have hred : (expand v).red.toNat = 36 * (v.toNat / 32 % 8) % 256 := by
    simp [expand, bitField_eq_div_mod]
  omega

theorem expand_green_toNat (v : Byte) : (expand v).green.toNat = 36 * (v.toNat / 4 % 8) := by
  have hgreen : (expand v).green.toNat = 36 * (v.toNat / 4 % 8) % 256 := by
    simp [expand, bitField_eq_div_mod]
  omega

theorem expand_blue_toNat (v : Byte) : (expand v).blue.toNat = 85 * (v.toNat % 4) := by
  have hblue : (expand v).blue.toNat = 85 * (v.toNat % 4) % 256 := by
    simp [expand, bitField_eq_div_mod]
  omega

/-! ### The statements -/

/-- Settles O35: the three operands decide first, then the two coordinates, between the pixel write and the faults. -/
theorem colorWritesOnePixel : Obligations.ColorWritesOnePixel := by
  intro s x y c
  refine ⟨rfl, fun hx hy hc => ⟨fun hw hh hwf => ?inside, fun hout => ?outside⟩, fun h => exec_color_of_ge h s⟩
  case inside =>
    have hput := State.putPixel_of_inside hw hh s.x[c.toNat]
    exact ⟨_, (exec_color_of_lt hx hy hc s).trans (congrArg _ hput), rfl, Memory.writePixel_wf _ _ _ hwf,
      fun k => Memory.read_writePixel _ _ k _ hwf⟩
  case outside => exact (exec_color_of_lt hx hy hc s).trans (congrArg _ (State.putPixel_of_outside hout _))

/-- Settles O36: as O35, with the literal in the place of the third register. -/
theorem colorIWritesOnePixel : Obligations.ColorIWritesOnePixel := by
  intro s x y imm
  refine ⟨rfl, fun hx hy => ⟨fun hw hh hwf => ?inside, fun hout => ?outside⟩, fun h => exec_colorI_of_ge h imm s⟩
  case inside =>
    have hput := State.putPixel_of_inside hw hh imm
    exact ⟨_, (exec_colorI_of_lt hx hy imm s).trans (congrArg _ hput), rfl, Memory.writePixel_wf _ _ _ hwf,
      fun k => Memory.read_writePixel _ _ k _ hwf⟩
  case outside => exact (exec_colorI_of_lt hx hy imm s).trans (congrArg _ (State.putPixel_of_outside hout _))

/-- Settles O34: the largest products, 36 * 7 and 85 * 3, are bytes, so none wraps. -/
theorem expandColourByFields : Obligations.ExpandColourByFields :=
  ⟨fun v => ⟨expand_red_toNat v, expand_green_toNat v, expand_blue_toNat v, rfl⟩, by decide, by decide, by decide,
    by decide⟩

/-- Settles O37: Draw's effect is the two writes of `sendFrame`; the mailbox before it is not looked at. -/
theorem drawSendsLatestFrame : Obligations.DrawSendsLatestFrame :=
  fun s => ⟨rfl, exec_draw s⟩

end Sys2Proof.Machine

/-! SUPPORT. Proofs of the statements about the ends of a run, the other agents and the Clock (60_exceptions.md). First
which instruction ends a run for which reason, then one rule for each move of another agent; then the statements. -/

namespace Sys2Proof.Machine

open Sys2Proof

/-! ### How an instruction ends a run (60_exceptions.md R242, R245) -/

/-- `EndsRunFor i why`: executing `i` can end a run for the reason `why`. -/
inductive EndsRunFor : Instr → Reason → Prop where
  | badRegister {i : Instr} (h : i.regsInRange = false) : EndsRunFor i .registerRangeError
  | halt : EndsRunFor .halt .halt
  | illegal (op : Byte) : EndsRunFor (.illegal op) .decodeError
  | div (dst a b : Byte) : EndsRunFor (.div dst a b) .arithmeticError
  | color (x y c : Byte) : EndsRunFor (.color x y c) .frameBoundsError
  | colorI (x y imm : Byte) : EndsRunFor (.colorI x y imm) .frameBoundsError
  | ret : EndsRunFor .ret .callStackError

section Ends

variable {s t : State} {i : Instr} {why : Reason}

/-- An instruction keeps the run state, or ends the run for a reason of its own and does nothing else. -/
theorem Effect.keeps_run_or_terminates (h : Effect s i t) :
    t.run = s.run ∨ ∃ why, EndsRunFor i why ∧ t = s.terminate why := by
  cases h
  case badRegister hbad => exact .inr ⟨_, .badRegister hbad, rfl⟩
  case halt => exact .inr ⟨_, .halt, rfl⟩
  case illegal op => exact .inr ⟨_, .illegal op, rfl⟩
  case divZero => exact .inr ⟨_, .div _ _ _, rfl⟩
  case colorOutside => exact .inr ⟨_, .color _ _ _, rfl⟩
  case colorIOutside => exact .inr ⟨_, .colorI _ _ _, rfl⟩
  case retEmpty => exact .inr ⟨_, .ret, rfl⟩
  all_goals exact .inl rfl

theorem Effect.terminates_of_halted (h : Effect s i t) (hrun : s.run = .running) (hhalted : t.run = .halted why) :
    EndsRunFor i why ∧ t = s.terminate why := by
  rcases h.keeps_run_or_terminates with hkeep | ⟨why', hends, rfl⟩
  · cases hrun.symm.trans (hkeep.symm.trans hhalted)
  · cases hhalted
    exact ⟨hends, rfl⟩

/-- Every other effect has among its conditions that the registers it names are in range. -/
theorem Effect.eq_terminate_of_bad_register (h : Effect s i t) (hbad : i.regsInRange = false) :
    t = s.terminate .registerRangeError := by
  cases h
  case badRegister => rfl
  all_goals simp [Instr.regsInRange, Instr.regOperands, *] at hbad

/-- A step that ends the run takes the move off the schedule, may move `pc` in the fetch, and does nothing else. -/
theorem StepEffect.terminates_of_halted (h : StepEffect s t) (hrun : s.run = .running) (hhalted : t.run = .halted why) :
    t = (s.advance.setPc t.pc).terminate why := by
  have hother {u : State} (hkeep : u.run = s.run) : u.run ≠ .halted why := by simp [hkeep, hrun]
  cases h
  case stopped | fetchRaised =>
    cases hhalted
    rfl
  case executed heffect =>
    obtain ⟨-, rfl⟩ := heffect.terminates_of_halted hrun hhalted
    rfl
  all_goals exact absurd hhalted (hother rfl)

end Ends

/-! ### The moves, one by one (60_exceptions.md R262 to R266) -/

section Moves

variable {s : State} {k : Fin 8}

theorem step_of_nextMove {m : Move} (h : s.nextMove = m) : step s = moveStep m s.advance := by
  rw [← h]
  rfl

theorem step_press (h : s.nextMove = .press k) : step s = .next (s.advance.press k) := step_of_nextMove h

theorem step_release (h : s.nextMove = .release k) : step s = .next (s.advance.release k) := step_of_nextMove h

theorem step_take (h : s.nextMove = .take) : step s = .next s.advance.take := step_of_nextMove h

theorem step_stop (h : s.nextMove = .stop) : step s = .next s.advance.requestStop := step_of_nextMove h

/-- A running Engine always answers a next state: stopped, raised in the fetch, or what the instruction answers. -/
theorem engineStep_of_running (h : s.run = .running) : ∃ t, engineStep s = .next t := by
  cases hstop : s.stopReq with
  | true => exact ⟨_, engineStep_stopped h hstop⟩
  | false =>
    cases hf : fetchInstr s with
    | raised t => exact ⟨t, engineStep_raised h hstop hf⟩
    | got i u =>
      obtain ⟨t, hexec, -⟩ := exec_effect i u
      exact ⟨t, (engineStep_fetched h hstop hf).trans hexec⟩

theorem latchBit_eq_shiftLeft : ∀ k : Fin 8, latchBit k = (1 : Byte) <<< k.val := by decide

theorem State.takeAnswer_of_some {f : Frame} (h : s.mbox = some f) : s.takeAnswer = .frame f := by
  simp only [State.takeAnswer, h]

theorem State.takeAnswer_of_none (h : s.mbox = none) :
    s.takeAnswer = if s.chanOpen then .empty else .closed := by
  simp only [State.takeAnswer, h]

/-- A take from an empty mailbox leaves it empty, so only the answer is added. -/
theorem State.take_of_none (h : s.mbox = none) :
    s.take = { s with taken := s.taken ++ [if s.chanOpen then .empty else .closed] } := by
  rw [State.take, State.takeAnswer_of_none h, ← h]

end Moves

/-! ### The Clock and the throttle's reference (60_exceptions.md R257, 45_branch.md R176) -/

/-- From `s` to `t` neither the latest clock answer nor the throttle's reference goes back, and the reference is not
after the answer. -/
def ClockMovesOn (s t : State) : Prop := s.clock ≤ t.clock ∧ s.tLast ≤ t.tLast ∧ t.tLast ≤ t.clock

section Clock

variable {s t : State} {i : Instr}

/-- `JumpDt` alone reads the Clock, and a new reference is the answer it has just read. -/
theorem Effect.clockMovesOn (h : Effect s i t) (hs : s.tLast ≤ s.clock) : ClockMovesOn s t := by
  have hanswer := s.clock_le_clockAnswer
  cases h
  case jumpDtWithin => exact ⟨hanswer, le_rfl, hs.trans hanswer⟩
  case jumpDtExpired => exact ⟨hanswer, hs.trans hanswer, le_rfl⟩
  all_goals exact ⟨le_rfl, le_rfl, hs⟩

theorem StepEffect.clockMovesOn (h : StepEffect s t) (hs : s.tLast ≤ s.clock) : ClockMovesOn s t := by
  cases h
  case executed heffect => exact heffect.clockMovesOn hs
  all_goals exact ⟨le_rfl, le_rfl, hs⟩

end Clock

/-! ### A schedule that never names the Engine (60_exceptions.md R268) -/

/-- `s` with the state that the Engine shares with the other agents, the consumer's log and the listed moves taken
from `u`. -/
def State.withShared (s u : State) : State :=
  { s with ctrl := u.ctrl, mbox := u.mbox, stopReq := u.stopReq, sched := u.sched, taken := u.taken }

/-- The schedule names other agents than the Engine for ever: the listed moves are theirs, and so are the moves that it
repeats after these. -/
structure State.OthersForEver (s : State) : Prop where
  listed : .engine ∉ s.sched
  repeated : ∃ ms, s.recurrence = .cycle ms ∧ ms ≠ [] ∧ .engine ∉ ms

section OtherAgents

variable {s t u : State}

theorem State.withShared_trans (ht : t = s.withShared t) (hu : u = t.withShared u) : u = s.withShared u :=
  calc
    u = t.withShared u := hu
    _ = (s.withShared t).withShared u := congrArg (·.withShared u) ht
    _ = s.withShared u := rfl

/-- The next move is another agent's, listed or the first of a new round, and what stays listed is theirs too. -/
theorem State.OthersForEver.nextMove_advance (h : s.OthersForEver) :
    s.nextMove ≠ .engine ∧ ∃ rest, .engine ∉ rest ∧ s.advance = { s with sched := rest } := by
  obtain ⟨hlisted, ms, hr, hne, hms⟩ := h
  cases hsched : s.sched with
  | cons m rest =>
    rw [hsched, List.mem_cons, not_or] at hlisted
    obtain ⟨hm, hrest⟩ := hlisted
    exact ⟨State.nextMove_listed hsched ▸ Ne.symm hm, rest, hrest, State.advance_listed hsched⟩
  | nil =>
    obtain ⟨m, rest, rfl⟩ := List.exists_cons_of_ne_nil hne
    rw [List.mem_cons, not_or] at hms
    obtain ⟨hm, hrest⟩ := hms
    exact ⟨State.nextMove_cycle hsched hr ▸ Ne.symm hm, rest, hrest, State.advance_cycle hsched hr⟩

/-- One step under such a schedule is another agent's, and the schedule stays such a one. -/
theorem State.OthersForEver.exists_step (h : s.OthersForEver) :
    ∃ t, step s = .next t ∧ t = s.withShared t ∧ t.OthersForEver := by
  obtain ⟨hmove, rest, hrest, hadvance⟩ := h.nextMove_advance
  obtain ⟨t, hstep, ht⟩ := step_of_other hmove
  rw [hadvance] at ht
  have hsched : t.sched = rest := congrArg State.sched ht
  have hrecurrence : t.recurrence = s.recurrence := by rw [ht]
  refine ⟨t, hstep, ?_, hsched ▸ hrest, hrecurrence ▸ h.repeated⟩
  rwa [State.withShared, hsched]

theorem State.OthersForEver.exists_steps (h : s.OthersForEver) (n : Nat) :
    ∃ t, steps n s = .next t ∧ t = s.withShared t := by
  induction n generalizing s with
  | zero => exact ⟨s, rfl, rfl⟩
  | succ n ih =>
    obtain ⟨t, hstep, ht, hothers⟩ := h.exists_step
    obtain ⟨u, hsteps, hu⟩ := ih hothers
    exact ⟨u, by rwa [steps, hstep], State.withShared_trans ht hu⟩

end OtherAgents

/-! ### The statements -/

/-- Settles O60: one step under a schedule of the other agents leaves such a schedule, so any number of steps follow. -/
theorem otherAgentsCanMoveForEver : Obligations.OtherAgentsCanMoveForEver :=
  fun _ ms n hlisted hr hne hms => State.OthersForEver.exists_steps ⟨hlisted, ms, hr, hne, hms⟩ n

/-- Settles O49: all ends of a run are the one operation `terminate`, at the state the fetch left. -/
theorem faultsWriteOnlyRunAndChannel : Obligations.FaultsWriteOnlyRunAndChannel := by
  refine ⟨fun i s t why hrun h hhalted => ?instruction, fun s t why hrun h hhalted => ?wholeStep⟩
  case instruction =>
    obtain ⟨-, ht⟩ := (exec_cases h).terminates_of_halted hrun hhalted
    exact ht
  case wholeStep => exact (step_effect h).terminates_of_halted hrun hhalted

/-- Settles O50: the reasons of `EndsRunFor`, of which a bad register operand leaves one and registers in range leave
the others. -/
theorem eachInstructionRaisesOnlyItsFaults : Obligations.EachInstructionRaisesOnlyItsFaults := by
  intro i s t hrun h
  have he := exec_cases h
  refine ⟨fun hbad => by rw [he.eq_terminate_of_bad_register hbad, State.terminate_run], fun hr why hhalted => ?_⟩
  obtain ⟨hends, -⟩ := he.terminates_of_halted hrun hhalted
  cases hends
  case badRegister hbad => simp [hbad] at hr
  all_goals simp [Instr.tag]

/-- Settles O12: a halted Engine has no step, a running one always has, and so have the other agents. -/
theorem stepStopsExactlyWhenRunEnded : Obligations.StepStopsExactlyWhenRunEnded := by
  intro s
  refine ⟨fun why hmove hrun => (step_engine hmove).trans (engineStep_halted hrun), fun henabled => ?enabled⟩
  case enabled =>
    by_cases hmove : s.engineToMove
    · rw [step_engine hmove]
      exact engineStep_of_running (henabled.resolve_left (not_not.mpr hmove))
    · obtain ⟨t, hstep, -⟩ := step_of_other hmove
      exact ⟨t, hstep⟩

/-- Settles O38: the two moves of the Input Producer, with the button's bit written as a shift. -/
theorem pressAndReleaseSetAndClearLatchBit : Obligations.PressAndReleaseSetAndClearLatchBit := by
  intro s k
  rw [← latchBit_eq_shiftLeft k]
  exact ⟨step_press, step_release⟩

/-- Settles O56: of all the agents' moves only an executed `JumpDt` touches the Clock or the reference. -/
theorem clockAndThrottleNeverRunBackwards : Obligations.ClockAndThrottleNeverRunBackwards :=
  fun _ _ hs h => (step_effect h).clockMovesOn hs

/-- Settles O11: the Engine looks at the stop request before it fetches. -/
theorem stopRequestEndsRunBeforeFetch : Obligations.StopRequestEndsRunBeforeFetch :=
  fun _ hmove hrun hstop => (step_engine hmove).trans (engineStep_stopped hrun hstop)

/-- Settles O39: the mailbox decides first, then the channel, what the consumer is answered. -/
theorem takeDrainsMailboxOrReportsClosure : Obligations.TakeDrainsMailboxOrReportsClosure := by
  intro s hmove
  rw [step_take hmove]
  refine ⟨fun f hmbox => ?pending, fun hmbox hopen => ?empty, fun hmbox hclosed => ?closed⟩
  case pending =>
    have hanswer : s.advance.takeAnswer = .frame f := State.takeAnswer_of_some hmbox
    rw [State.take, hanswer]
    rfl
  case empty =>
    have htake := State.take_of_none (s := s.advance) hmbox
    rw [htake, State.advance_chanOpen, if_pos hopen]
    rfl
  case closed =>
    have htake := State.take_of_none (s := s.advance) hmbox
    rw [htake, State.advance_chanOpen, if_neg (by simp [hclosed])]
    rfl

/-- Settles O40: the Host's move sets the request, and no move of any agent, no instruction included, clears it. -/
theorem hostStopSetsRequest : Obligations.HostStopSetsRequest := by
  refine ⟨fun s => step_stop, fun s t hstop h => ?_⟩
  cases step_effect h
  case executed heffect =>
    obtain ⟨-, hkeep, -⟩ := heffect.keeps_shared
    exact hkeep.trans hstop
  case stop => rfl
  all_goals exact hstop

end Sys2Proof.Machine

/-! SUPPORT. Proofs of the statements about the reset and the start of a run (70_reset_and_hazards.md, with the reset
values of 92_eei_decisions.md). -/

namespace Sys2Proof.Machine

open Sys2Proof

/-- Settles O10: a loaded engine is ready at `pc` 0, so its first step is a case of O8 or of O7. -/
theorem runStartsAtOffsetZero : Obligations.RunStartsAtOffsetZero := by
  rintro width height period t0 prog ms r s rfl hmove
  refine ⟨fun hnil => ?noProgram, fun i rest hdecode => ?firstInstruction⟩
  case noProgram =>
    subst hnil
    exact fetchPastProgramEndRaises _ ⟨hmove, rfl, rfl⟩ le_rfl
  case firstInstruction => exact stepRunsDecodedInstruction _ i rest ⟨hmove, rfl, rfl⟩ hdecode

/-- Settles O59: a further engine differs from a first one in the latch and the record of the Clock, of which the
invariant does not speak. -/
theorem furtherEngineKeepsLatch : Obligations.FurtherEngineKeepsLatch := by
  intro s width height f
  refine ⟨fun hf => if_pos hf, fun hf => ⟨s.reconstruct width height (Config.periodTicks f), if_neg hf,
    s.clock_le_reconstruct_t0 _ _ _, rfl, fun prog => ⟨rfl, ?invariant⟩⟩⟩
  case invariant =>
    obtain ⟨-, hfirst⟩ := invariantHoldsAtReset
    exact (hfirst width height (Config.periodTicks f) s.clockAnswer prog).of_invPart_eq rfl

/-- Settles O58: the decided reset values, read off the construction. -/
theorem resetLeavesDecidedValues : Obligations.ResetLeavesDecidedValues :=
  fun _ _ _ _ => ⟨fun _ hk => Vector.getElem_replicate hk, rfl, rfl, rfl, rfl, rfl, rfl⟩

end Sys2Proof.Machine
